-- ==== Sys2Proof/Word.lean ====
section
/-! DEFINITION. The word types of the PLO-SG link framer (spec/00_scope.md R8, spec/30_encoding.md R59). -/

namespace Sys2Proof

/-- A byte: an 8-bit unsigned value (R8). -/
abbrev Byte := BitVec 8

/-- The host command word, 119 bits, taken whole in the cycle of the handshake (R59). -/
abbrev HostWord := BitVec 119

/-- The 13 payload bytes of a command; byte 0 is the first on the wire (R52, R54, R59). -/
abbrev Payload := Vector Byte 13

end Sys2Proof
end

