-- ==== Sys2Proof/Syntax.lean ====
section
/-! DEFINITION. The instructions: one constructor per row of spec/opcode_table.json. The two host commands (format
HOSTCMD, R59) carry the fields of the host command word. The 21 command opcodes (format TXFRAME, R52) carry the
13-byte payload field of their frame. The header, the length byte and the checksum of a frame are not operands. -/

namespace Sys2Proof

/-- The protocol revision of the Command Registry, register `rev` (R16, R72): 0 is legacy, 1 is extended. -/
inductive Revision
  | legacy
  | extended
deriving DecidableEq, Repr, Inhabited

/-- One constructor per row of spec/opcode_table.json, in the table's order. -/
inductive Instr
  /-- OPEN (R122): the revision is bit 2 of the host command word. -/
  | openSession (rev : Revision)
  /-- EXCHANGE (R123, R124): the opcode, the number of supplied payload bytes, and the 13 payload bytes. -/
  | exchange (opcode : Byte) (plen : BitVec 4) (payload : Payload)
  /-- RESP_ECHO, opcode 0x00 (R75). -/
  | respEcho (payload : Payload)
  /-- SET_FREQ, opcode 0x01 (R76). -/
  | setFreq (payload : Payload)
  /-- SAVE_NTH_FREQ, opcode 0x02 (R77). -/
  | saveNthFreq (payload : Payload)
  /-- FREQ_COUNT, opcode 0x03 (R78). -/
  | freqCount (payload : Payload)
  /-- GET_NTH_FREQ, opcode 0x04 (R79). -/
  | getNthFreq (payload : Payload)
  /-- GET_ID, opcode 0x05 (R80). -/
  | getId (payload : Payload)
  /-- GET_HW_VER, opcode 0x06 (R81). -/
  | getHwVer (payload : Payload)
  /-- GET_FW_VER, opcode 0x07 (R82). -/
  | getFwVer (payload : Payload)
  /-- GET_POST_MULT, opcode 0x08 (R83). -/
  | getPostMult (payload : Payload)
  /-- REF_CLOCK, opcode 0x09 (R84). -/
  | refClock (payload : Payload)
  /-- GET_SERIAL, opcode 0x0A (R85). -/
  | getSerial (payload : Payload)
  /-- GET_DIP, opcode 0x0B (R86). -/
  | getDip (payload : Payload)
  /-- EXT_0C, opcode 0x0C (R87). -/
  | ext0C (payload : Payload)
  /-- EXT_0D, opcode 0x0D (R88). -/
  | ext0D (payload : Payload)
  /-- EXT_0E, opcode 0x0E (R89). -/
  | ext0E (payload : Payload)
  /-- EXT_0F, opcode 0x0F (R90). -/
  | ext0F (payload : Payload)
  /-- EXT_10, opcode 0x10 (R91). -/
  | ext10 (payload : Payload)
  /-- EXT_11, opcode 0x11 (R92). -/
  | ext11 (payload : Payload)
  /-- EXT_12, opcode 0x12 (R93). -/
  | ext12 (payload : Payload)
  /-- EXT_13, opcode 0x13 (R94). -/
  | ext13 (payload : Payload)
  /-- EXT_14, opcode 0x14 (R95). -/
  | ext14 (payload : Payload)
deriving DecidableEq, Repr

end Sys2Proof
end

