-- ==== Sys2Proof/Machine/Registry.lean ====
section
/-! DEFINITION. The Command Registry (spec/40_command_registry.md R67 to R74): the table that maps a revision and an opcode to
a Command Descriptor, its default, and what a table must satisfy. -/

namespace Sys2Proof.Machine

/-- The frame variant of a response (R68). -/
inductive Variant
  | standard | large
deriving DecidableEq, Repr

/-- A Command Descriptor (R67): opcode, expected response-payload length L, variant, remap. -/
structure Descriptor where
  opcode : Byte
  len : BitVec 5
  variant : Variant
  remap : Bool
deriving DecidableEq, Repr

/-- One row of a registry: the descriptor of an opcode in one revision. -/
structure RegistryRow where
  rev : Revision
  desc : Descriptor
deriving DecidableEq, Repr

/-- `N(variant)`: the total response length (R68). -/
def responseLength : Variant → BitVec 5
  | .standard => 10#5
  | .large => 28#5

/-- The row of a registry for a revision and an opcode, if it has one (R70). -/
def registryLookup (rows : List RegistryRow) (rev : Revision) (op : Byte) : Option Descriptor :=
  match rows.find? (fun r => decide (r.rev = rev) && decide (r.desc.opcode = op)) with
  | some r => some r.desc
  | none => none

/-- The rows that R74 marks fixed: the opcodes 1..9 and 11, the same in both revisions. -/
def fixedRows : List Descriptor :=
  [ { opcode := 0x01#8, len := 0#5, variant := .standard, remap := false },
    { opcode := 0x02#8, len := 0#5, variant := .standard, remap := false },
    { opcode := 0x03#8, len := 1#5, variant := .standard, remap := false },
    { opcode := 0x04#8, len := 4#5, variant := .standard, remap := true },
    { opcode := 0x05#8, len := 8#5, variant := .large, remap := false },
    { opcode := 0x06#8, len := 1#5, variant := .standard, remap := false },
    { opcode := 0x07#8, len := 3#5, variant := .standard, remap := false },
    { opcode := 0x08#8, len := 1#5, variant := .standard, remap := false },
    { opcode := 0x09#8, len := 3#5, variant := .standard, remap := false },
    { opcode := 0x0B#8, len := 1#5, variant := .standard, remap := false } ]

/-- The default row of opcode 0 (R75): R74 fixes its L, the variant is decided by D10. -/
def echoRow : Descriptor := { opcode := 0x00#8, len := 0#5, variant := .standard, remap := false }

/-- The default row of opcode 10 in both revisions (R85): its meaning in the other revision is open (D10, I3). -/
def serialRow : Descriptor := { opcode := 0x0A#8, len := 23#5, variant := .large, remap := false }

/-- The rows of the default registry for the opcodes 0..11, the same in both revisions (R74). -/
def legacyRows : List Descriptor := echoRow :: serialRow :: fixedRows

/-- The opcodes of the extended revision only (R72). -/
def extOpcodes : List Byte :=
  [0x0C#8, 0x0D#8, 0x0E#8, 0x0F#8, 0x10#8, 0x11#8, 0x12#8, 0x13#8, 0x14#8]

/-- The row of R74 for an extended opcode with `EXT_LEN[op] = l`. -/
def extRow (op : Byte) (l : Fin 2) : Descriptor :=
  { opcode := op, len := BitVec.ofNat 5 l.val, variant := .standard, remap := false }

/-- The default registry (R74), with `EXT_LEN[op]` of opcode `12 + i` at index `i`. -/
def defaultRegistry (extLen : Vector (Fin 2) 9) : List RegistryRow :=
  legacyRows.map (fun d => { rev := .legacy, desc := d })
    ++ legacyRows.map (fun d => { rev := .extended, desc := d })
    ++ (extOpcodes.zip extLen.toList).map (fun x => { rev := .extended, desc := extRow x.1 x.2 })

/-- One row is well-formed: the payload fits its frame (R69), only opcode 4 has the remap (R67), the status sentinels are no
opcodes (R62), and 12..20 are not assigned in the legacy revision (R72). -/
def registryRowOk (r : RegistryRow) : Bool :=
  decide (r.desc.len.toNat + 5 ≤ (responseLength r.desc.variant).toNat)
    && (!r.desc.remap || decide (r.desc.opcode = 0x04#8))
    && decide (r.desc.opcode.toNat < 0xFE)
    && !(decide (r.rev = .legacy) && extOpcodes.contains r.desc.opcode)

/-- The opcodes 0..11 of one revision agree with the table (R74): the fixed rows as they stand, opcode 0 with L 0 in either
variant, and opcode 10 assigned (R72) with any well-formed row. -/
def tableRowsOk (rows : List RegistryRow) (rev : Revision) : Bool :=
  fixedRows.all (fun d => decide (registryLookup rows rev d.opcode = some d))
    && (match registryLookup rows rev 0x00#8 with
        | some d => decide (d.len = 0#5)
        | none => false)
    && (registryLookup rows rev 0x0A#8).isSome

/-- The opcode 12..20 is assigned in the extended revision, Standard and without remap (R74: the variant is fixed, L is a
parameter). -/
def extRowOk (rows : List RegistryRow) (op : Byte) : Bool :=
  match registryLookup rows .extended op with
  | some d => decide (d.variant = .standard) && !d.remap
  | none => false

/-- A registry that the block can be built with (R69, R72, R74; log 3). -/
def registryOk (rows : List RegistryRow) : Bool :=
  rows.all registryRowOk && tableRowsOk rows .legacy && tableRowsOk rows .extended && extOpcodes.all (extRowOk rows)

/-- Why the block refuses a host command (R125, R162). The reason is not recorded in any register. -/
inductive CmdFaultReason
  | reservedKind | alreadyOpen | unknownCommand | payloadTooLong
deriving DecidableEq, Repr

/-- The default registry is well-formed, whatever `EXT_LEN` is. -/
theorem registryOk_default (extLen : Vector (Fin 2) 9) : registryOk (defaultRegistry extLen) = true := by
  obtain ⟨⟨l⟩, h⟩ := extLen
  match l, h with
  | [a, b, c, d, e, f, g, i, j], _ =>
    have hr : ∀ op ∈ extOpcodes, ∀ x : Fin 2, registryRowOk { rev := .extended, desc := extRow op x } = true := by decide
    simp only [registryOk, Bool.and_eq_true]
    refine ⟨⟨⟨?_, rfl⟩, rfl⟩, rfl⟩
    simp only [defaultRegistry, List.all_append, Bool.and_eq_true]
    refine ⟨⟨rfl, rfl⟩, ?_⟩
    simp only [List.all_map, List.all_eq_true]
    intro x hx
    exact hr _ (List.of_mem_zip hx).1 _

end Sys2Proof.Machine
end

