-- ==== Sys2Proof/Config.lean ====
section
/-! DEFINITION. What an implementation fixes (the parameters of spec/00_scope.md R7), the inputs of the block
(spec/10_state.md R30), and the free inputs (R10, R136). -/

namespace Sys2Proof

open Sys2Proof.Machine

/-- The parameters of R7 that the block or its neighbours read. A field has a default exactly where R7 gives one; the others
are OPEN. A value carries the bounds that R7 and R69 state: an ill-formed registry is refused when the value is built.
`extLen` (`EXT_LEN[op]` of opcode `12 + i` at index `i`) enters through the default registry alone. Half an odd `clkHz` is
rounded down (log 3). `uartFraming` is an uninterpreted code: no rule reads it (R40). -/
structure Params where
  clkHz : Nat
  baud : Nat := 9600
  uartFraming : Nat
  settleCycles : Nat := clkHz / 2
  settle_pos : 1 ≤ settleCycles
  timeoutCycles : Nat := 2 * clkHz
  timeout_ge : 28 ≤ timeoutCycles
  rxFifoDepth : Nat
  depth_ge : 28 ≤ rxFifoDepth
  rxFlushOnExchange : Bool := false
  extLen : Vector (Fin 2) 9
  registry : List RegistryRow := defaultRegistry extLen
  registry_ok : registryOk registry = true := by exact registryOk_default _
deriving DecidableEq, Repr

/-- The defaults of R7 at a clock of `clkHz`, for any value of the OPEN parameters: the settle is half a second, the read
window two seconds, 9600 baud, no flush, the default registry. -/
def Params.atClock (clkHz : Nat) (h : 14 ≤ clkHz) (uartFraming depth : Nat) (hd : 28 ≤ depth)
    (extLen : Vector (Fin 2) 9) : Params where
  clkHz := clkHz
  uartFraming := uartFraming
  settle_pos := by omega
  timeout_ge := by omega
  rxFifoDepth := depth
  depth_ge := hd
  extLen := extLen

/-- Some parameters that meet the bounds of R7. No default: it shows only that parameters exist, so that the opaque
`Config.paramsOf` may be declared. -/
def Params.witness : Params := Params.atClock 14 (by omega) 0 28 (by omega) (Vector.replicate 9 0)

/-- The input signals that the block samples at one rising edge of `clk` (R30). `cmdWord` packs `cmd_kind`, `cmd_rev`,
`cmd_opcode`, `cmd_plen` and `cmd_payload` as R59 lays them out. -/
structure Pins where
  rst : Bool
  cmdValid : Bool
  cmdWord : HostWord
  linkOk : Bool
  txReady : Bool
  rxValid : Bool
  rxData : Byte
deriving DecidableEq, Repr, Inhabited

/-- No input asserted. -/
def Pins.quiet : Pins :=
  { rst := false, cmdValid := false, cmdWord := 0, linkOk := false, txReady := false, rxValid := false, rxData := 0 }

/-- DESIGN CHOICE (log 2). The parameters of the block that `State.reset` describes: fixed, and not known. -/
opaque Config.paramsOf [Inhabited Params] : Params

/-- `Config.paramsOf`: nothing can be proved of its value but the bounds that every value of `Params` carries. -/
def Config.params : Params := @Config.paramsOf ⟨Params.witness⟩

/-- DESIGN CHOICE (log 1). The inputs at the edges that no script of `State` describes: the host, the transmitter, the
line and the device are free (R10, R136), so nothing constrains this function. -/
opaque Config.freePins : Nat → Pins

/-- The extended-revision commands the source names (R96). -/
inductive ExtCommand
  | setOutputPower | getOutputPower
  | setOutputConfig | getOutputConfig
  | setRefClockConfig | getRefClockConfig
  | getFrequency
  | getLockStatus
  | refClock
deriving DecidableEq, Repr, Inhabited

/-- The output configurations, "output enable A/B combinations" (R144). -/
inductive OutputConfig
  | neither | onlyA | onlyB | both
deriving DecidableEq, Repr

/-- The reference-clock sources (R144). -/
inductive RefClockSource
  | internal | internalWithOutput | externalInput
deriving DecidableEq, Repr

/-- The host-side parameters of R7, outside the block: `EXT_NAME` of opcode `12 + i` at index `i`, the two maps of
`ENUM_MAP`, and `REFCLK_DECODE` in kHz; R7 gives none of them a default. `argumentPayload` is the model's own: how the request
of an opcode carries an argument (`plen` and payload), a layout that is not in source (N6; log 12). So is `internalSerialOpcode`:
the opcode of the row that `REGISTRY` adds for get-internal-serial-number, or `none` where the command does not exist, as in the
default registry (R96, N5, I27; log 12). They are arguments of the host's functions, never part of `State`. -/
structure HostParams where
  extName : Vector ExtCommand 9
  outputConfigMap : Byte → Option OutputConfig
  refClockSourceMap : Byte → Option RefClockSource
  refclkDecode : Option (Byte → Byte → Byte → Nat)
  argumentPayload : Byte → Nat → BitVec 4 × Payload
  internalSerialOpcode : Option Byte

end Sys2Proof
end

