-- ==== Sys2Proof/Machine/Frame.lean ====
section
/-! DEFINITION. Bytes and frames: little-endian fields (spec/20_memory.md R39), the LRC-8 checksum and ENCODE
(spec/41_tx_framer.md R97 to R101), and the assembly of a frame's bytes into a buffer. -/

namespace Sys2Proof.Machine

/-- The unsigned value of a little-endian byte sequence: the least significant byte first (R8, R39). -/
def leNat : List Byte → Nat
  | [] => 0
  | b :: bs => b.toNat + 256 * leNat bs

/-- The `k` lowest bytes of a number, the least significant first. -/
def leBytes : Nat → Nat → List Byte
  | 0, _ => []
  | k + 1, n => BitVec.ofNat 8 n :: leBytes k (n / 256)

/-- The `k` lowest bytes of a number, the most significant first. -/
def beBytes (k n : Nat) : List Byte := (leBytes k n).reverse

/-- The first `n` bytes of `l`, with trailing zero bytes where `l` is shorter. -/
def fit (n : Nat) (l : List Byte) : List Byte := (l ++ List.replicate n 0#8).take n

theorem fit_length (n : Nat) (l : List Byte) : (fit n l).length = n := by
  simp [fit]

/-- A buffer of `n` bytes that holds `fit n l`. -/
def bytesVec (n : Nat) (l : List Byte) : Vector Byte n := ⟨(fit n l).toArray, by simp [fit_length]⟩

/-- `Σ s` of R8: the sum of the bytes as an unbounded number. -/
def byteSum : List Byte → Nat
  | [] => 0
  | b :: bs => b.toNat + byteSum bs

/-- LRC-8 (R97): `(4096 − Σ s) mod 256`, the least non-negative residue (D21). -/
def lrc8 (s : List Byte) : Byte := BitVec.ofNat 8 (((4096 : Int) - (byteSum s : Int)) % 256).toNat

/-- The accumulator form of LRC-8 (R98): an 8-bit adder without carry, then the two's-complement negation. -/
def lrc8Acc (s : List Byte) : Byte := ((s.foldl (fun acc b => acc + b) 0#8) ^^^ 0xFF#8) + 1#8

/-- `s[a .. b]` of R8, both ends included, empty when `b < a`. -/
def slice (s : List Byte) (a b : Nat) : List Byte := (s.drop a).take (b + 1 - a)

/-- The first 17 bytes of an outbound frame (R101): header, length byte, opcode, payload, trailing zeros. -/
def frameBody (op : Byte) (p : List Byte) (k : Nat) : List Byte :=
  [0xFF#8, 0xFE#8, 0x10#8, op] ++ p.take k ++ List.replicate (13 - k) 0#8

/-- `ENCODE(op, p, k)` of R101: the 18 bytes of an outbound frame, closed by the LRC-8 of bytes 2..16. -/
def encodeFrame (op : Byte) (p : List Byte) (k : Nat) : List Byte :=
  frameBody op p k ++ [lrc8 (slice (frameBody op p k) 2 16)]

end Sys2Proof.Machine
end

