-- ==== Sys2Proof/Machine/State.lean ====
section
/-! DEFINITION. The architectural state of the block (spec/10_state.md), its reset value (R33), and the ways a step can stop. -/

namespace Sys2Proof.Machine

/-- The five legal values of the control state register `state`, and the three unreachable ones (R15, R35). -/
inductive Phase
  | closed | idle | tx | settle | rx | illegal
deriving DecidableEq, Repr

/-- The encoding of R15 read from the 3-bit register. -/
def phaseOf (st : BitVec 3) : Phase :=
  match st.toNat with
  | 0 => .closed
  | 1 => .idle
  | 2 => .tx
  | 3 => .settle
  | 4 => .rx
  | _ => .illegal

/-- CLOSED: no Session (R15). -/
abbrev stClosed : BitVec 3 := 0#3
/-- IDLE: a Session is open, no exchange in flight (R15). -/
abbrev stIdle : BitVec 3 := 1#3
/-- TX: emitting the outbound frame (R15). -/
abbrev stTx : BitVec 3 := 2#3
/-- SETTLE: the unconditional delay after the write (R15). -/
abbrev stSettle : BitVec 3 := 3#3
/-- RX: reading the response (R15). -/
abbrev stRx : BitVec 3 := 4#3

/-- The Result Codes (R27), in the order of their numbers 0..7. -/
inductive ResultCode
  | success
  | warningFrequencyOutOfRange
  | errorOpenPort
  | errorTimeout
  | errorChecksumOnSend
  | errorChecksumOnReceive
  | errorNoSavedFrequency
  | errorGeneric
deriving DecidableEq, Repr

/-- The four registers that an accepted EXCHANGE latches (R17). -/
structure Latched where
  /-- `op_lat`, 8 bits -/
  op : Byte
  /-- `n_lat`, 5 bits: the expected total response length -/
  n : BitVec 5
  /-- `l_lat`, 5 bits: the expected response-payload length -/
  l : BitVec 5
  /-- `remap_lat`, 1 bit -/
  remap : Bool
deriving DecidableEq, Repr

/-- The result registers (R22 to R25). -/
structure ResultRegs where
  /-- `rsp_valid` -/
  valid : Bool
  /-- `res_code` -/
  code : ResultCode
  /-- `res_raw_code` -/
  rawCode : ResultCode
  /-- `res_status_valid` -/
  statusValid : Bool
  /-- `res_status` -/
  status : Byte
  /-- `res_payload_valid` -/
  payloadValid : Bool
  /-- `res_plen`, 5 bits -/
  plen : BitVec 5
  /-- `res_payload[0..22]` -/
  payload : Vector Byte 23
deriving DecidableEq, Repr

/-- The result registers at reset and after the acceptance of an EXCHANGE in IDLE: all 0 (R33, R124). -/
def ResultRegs.cleared : ResultRegs :=
  { valid := false, code := .success, rawCode := .success, statusValid := false, status := 0#8,
    payloadValid := false, plen := 0#5, payload := bytesVec 23 [] }

/-- The whole machine. The first group is the spec's state; the last four fields are the model's own: the parameters,
which no step changes, and the inputs of this and of the coming edges. -/
structure State where
  /-- `state`, 3 bits (R15) -/
  state : BitVec 3
  /-- `rev`, 1 bit (R16) -/
  rev : Revision
  /-- `op_lat`, `n_lat`, `l_lat`, `remap_lat` (R17) -/
  lat : Latched
  /-- `tx_buf[0..17]` (R18) -/
  txBuf : Vector Byte 18
  /-- `tx_idx`, 5 bits (R18) -/
  txIdx : BitVec 5
  /-- `rx_buf[0..27]` (R19) -/
  rxBuf : Vector Byte 28
  /-- `rx_cnt`, 5 bits (R19) -/
  rxCnt : BitVec 5
  /-- `cnt`, an unbounded number as R20 allows -/
  cnt : Nat
  /-- the receive FIFO, head first, of length `fifo_count`, as R21 allows -/
  fifo : List Byte
  /-- the result registers (R22 to R25) -/
  res : ResultRegs
  /-- `flt_cmd`, sticky (R26) -/
  fltCmd : Bool
  /-- `flt_rx_overflow`, sticky (R26) -/
  fltRxOverflow : Bool
  /-- the model's own: the parameters of R7, constant (log 2) -/
  params : Params
  /-- the model's own: the input signals sampled at the coming edge (log 1) -/
  pins : Pins
  /-- the model's own: the inputs of the edges after it, as far as they are scripted (log 1) -/
  future : List Pins
  /-- the model's own: how many edges have passed; it numbers the free inputs (log 1) -/
  cycle : Nat
deriving DecidableEq, Repr

/-- The control state as a name (R15). -/
def State.phase (s : State) : Phase := phaseOf s.state

/-- Why a step stops with a fault. -/
inductive Fault
  /-- Raised by every instruction and by every edge without reset while `state` holds 5, 6 or 7: R35 says that a model
  treats such a state as a fault, never as a state with a step. Safe: no run from reset reaches one. -/
  | illegalState
deriving DecidableEq, Repr

/-- Why a step is refused. -/
inductive Refusal
  /-- Raised by no instruction: every row of the opcode table has its meaning. Safe. -/
  | notModelled (mnemonic : String)
deriving DecidableEq, Repr

/-- `RESET_STATE` (R33). The parameters are those of `Config`; the inputs at the first edge are quiet (DESIGN CHOICE,
log 1), no later input is scripted. -/
def State.reset : State :=
  { state := stClosed
    rev := .legacy
    lat := { op := 0#8, n := 0#5, l := 0#5, remap := false }
    txBuf := bytesVec 18 []
    txIdx := 0#5
    rxBuf := bytesVec 28 []
    rxCnt := 0#5
    cnt := 0
    fifo := []
    res := ResultRegs.cleared
    fltCmd := false
    fltRxOverflow := false
    params := Config.params
    pins := Pins.quiet
    future := []
    cycle := 0 }

end Sys2Proof.Machine
end

