-- ==== Sys2Proof/Machine/Operands.lean ====
section
/-! DEFINITION. Operands and the values read from them (spec/30_encoding.md R54, R64, R66; spec/42_rx_validator.md R106 to
R116): the padded payload field, the response slice, DECODE and REMAP. -/

namespace Sys2Proof.Machine

/-- `REGISTRY(rev, opcode)` (R70): a pure function of the parameters, the revision and the opcode. -/
def registry (p : Params) (rev : Revision) (op : Byte) : Option Descriptor := registryLookup p.registry rev op

/-- What an accepted EXCHANGE latches of a descriptor (R124). -/
def latchOf (op : Byte) (d : Descriptor) : Latched :=
  { op := op, n := responseLength d.variant, l := d.len, remap := d.remap }

/-- The latch registers of an opcode in the extended revision, which assigns every opcode of the table; all 0 for an
unassigned one. -/
def latchForOpcode (p : Params) (op : Byte) : Latched :=
  match registry p .extended op with
  | some d => latchOf op d
  | none => { op := op, n := 0#5, l := 0#5, remap := false }

/-- The payload field of a command that supplies its first `plen` bytes: the others are 0x00 (R54, R64). -/
def padPayload (plen : BitVec 4) (p : Payload) : Payload := bytesVec 13 (p.toList.take plen.toNat)

/-- `le32bytes(k)` of R66. -/
def le32bytes (k : Nat) : List Byte := leBytes 4 k

/-- `le32(s, o)` of R8; `none` where the sequence has no four bytes at `o` (R139). -/
def le32 (s : List Byte) (o : Nat) : Option Nat :=
  if o + 4 ≤ s.length then some (leNat ((s.drop o).take 4)) else none

/-- The pseudo-command `SET_FREQ k` (R66), for `0 ≤ k < 2^32` as R66 defines `le32bytes`; a larger `k` has no expansion. -/
def pseudoSetFreq (k : Nat) : Option Instr :=
  if k < 2 ^ 32 then some (.exchange 0x01#8 4#4 (bytesVec 13 (le32bytes k))) else none

/-- The pseudo-command `GET op` (R66): an empty payload. DESIGN CHOICE (log 12): R66 gives it for an opcode whose payload the source
leaves zero by default and lists no such opcodes; here it is defined for every opcode byte, and the caller sees to the choice. -/
def pseudoGet (op : Byte) : Instr := .exchange op 0#4 (bytesVec 13 [])

/-- The record that DECODE returns (R106). -/
structure Response where
  code : ResultCode
  statusValid : Bool
  status : Byte
  payloadValid : Bool
  payload : List Byte
deriving DecidableEq, Repr

/-- A record with a code and nothing else valid (R106 steps 1 and 2, R122, R123). -/
def Response.bare (code : ResultCode) : Response :=
  { code := code, statusValid := false, status := 0#8, payloadValid := false, payload := [] }

/-- Steps 3 to 5 of DECODE, on a frame whose length and checksum are right (R109, R110, R111). -/
def decodeStatus (st : Byte) (payload : List Byte) : Response :=
  if st = 0xFE#8 then
    { code := .errorChecksumOnSend, statusValid := true, status := st, payloadValid := false, payload := [] }
  else if st = 0xFF#8 then
    { code := .errorGeneric, statusValid := true, status := st, payloadValid := true, payload := payload }
  else { code := .success, statusValid := true, status := st, payloadValid := true, payload := payload }

/-- `DECODE(raw, N, L)` of R106: length, then checksum, then the status byte at index 3. -/
def decodeResponse (raw : List Byte) (n l : Nat) : Response :=
  if raw.length ≠ n then Response.bare .errorTimeout
  else if lrc8 (slice raw 2 (n - 2)) ≠ raw.getD (n - 1) 0#8 then Response.bare .errorChecksumOnReceive
  else decodeStatus (raw.getD 3 0#8) ((raw.drop 4).take l)

/-- `REMAP(code, remap)` of R114. -/
def remapCode (code : ResultCode) (remap : Bool) : ResultCode :=
  if remap = true ∧ code = .errorGeneric then .errorNoSavedFrequency else code

end Sys2Proof.Machine
end

