-- ==== Sys2Proof/Machine/Flags.lean ====
section
/-! DEFINITION. The status flags and the outputs (spec/10_state.md R22 to R28, R31, R32): what `complete` writes into the
result registers, the Result Code numbers, the status word and the output signals. -/

namespace Sys2Proof.Machine

/-- What `complete(code, r)` writes into the result registers (R128). -/
def resultOf (code : ResultCode) (r : Response) : ResultRegs :=
  { valid := true
    code := code
    rawCode := r.code
    statusValid := r.statusValid
    status := r.status
    payloadValid := r.payloadValid
    plen := if r.payloadValid then BitVec.ofNat 5 r.payload.length else 0#5
    payload := bytesVec 23 r.payload }

/-- The number of a Result Code (R27). -/
def ResultCode.bits : ResultCode → BitVec 3
  | .success => 0#3
  | .warningFrequencyOutOfRange => 1#3
  | .errorOpenPort => 2#3
  | .errorTimeout => 3#3
  | .errorChecksumOnSend => 4#3
  | .errorChecksumOnReceive => 5#3
  | .errorNoSavedFrequency => 6#3
  | .errorGeneric => 7#3

/-- A flag as one bit. -/
def flagBit (b : Bool) : BitVec 1 := if b then 1#1 else 0#1

/-- `rev` as one bit: 0 is legacy, 1 is extended (R16). -/
def revBit : Revision → BitVec 1
  | .legacy => 0#1
  | .extended => 1#1

/-- `status_word` (R28), from bit 31 down to bit 0. -/
def statusWord (s : State) : BitVec 32 :=
  s.res.status ++ (0#3 : BitVec 3) ++ s.res.plen ++ (0#1 : BitVec 1) ++ flagBit s.res.payloadValid ++ s.res.rawCode.bits
    ++ s.res.code.bits ++ flagBit s.res.statusValid ++ flagBit s.fltRxOverflow ++ flagBit s.fltCmd
    ++ flagBit s.res.valid ++ revBit s.rev ++ s.state

/-- `res_payload_out`: byte i of `res_payload` at bits [8i+7:8i] (R30). -/
def resPayloadOut (s : State) : BitVec 184 := BitVec.ofNat 184 (leNat s.res.payload.toList)

/-- `cmd_ready` (R31). -/
def cmdReady (s : State) : Bool := decide (s.phase = .closed) || decide (s.phase = .idle)

/-- `tx_valid` (R31). -/
def txValid (s : State) : Bool := decide (s.phase = .tx)

/-- `tx_data` (R31). -/
def txData (s : State) : Byte := if s.phase = .tx then s.txBuf.toList.getD s.txIdx.toNat 0#8 else 0#8

/-- An exchange is in flight: TX, SETTLE or RX (R15). -/
def State.busy (s : State) : Bool :=
  decide (s.phase = .tx) || decide (s.phase = .settle) || decide (s.phase = .rx)

/-- Either sticky fault flag is set: the spec calls such a state faulted, never a good final state (R26, R162, R163). -/
def State.faulted (s : State) : Bool := s.fltCmd || s.fltRxOverflow

/-- The byte that the transmitter takes at this edge, if it takes one (R43, R103). -/
def sentNow (s : State) : Option Byte :=
  if s.pins.rst = false ∧ txValid s = true ∧ s.pins.txReady = true then some (txData s) else none

end Sys2Proof.Machine
end

