-- ==== Sys2Proof/Machine/Ops.lean ====
section
/-! DEFINITION. The shared operations of the block. Abnormal outcomes are of two kinds (spec/60_exceptions.md): a Result
Code, which `complete` latches, and a sticky fault flag. The block has no trap, no handler and no return from one (R152,
R166, R167): `complete` and `raiseCmdFault` are all there is of entry, the next host command all there is of return. -/

namespace Sys2Proof.Machine

/-- `complete(code, r)` (R128): the result registers, in one cycle. -/
def complete (code : ResultCode) (r : Response) (s : State) : State := { s with res := resultOf code r }

/-- `raise CmdFault(reason)` (R162): the sticky flag and nothing else; the reason is not recorded. -/
def raiseCmdFault (_reason : CmdFaultReason) (s : State) : State := { s with fltCmd := true }

/-- OPEN accepted in CLOSED (R122). -/
def openInClosed (rev : Revision) (s : State) : State :=
  if s.pins.linkOk then complete .success (Response.bare .success) { s with rev := rev, state := stIdle }
  else complete .errorOpenPort (Response.bare .errorOpenPort) s

/-- EXCHANGE accepted in CLOSED (R123): no field is examined. -/
def exchangeInClosed (s : State) : State := complete .errorOpenPort (Response.bare .errorOpenPort) s

/-- EXCHANGE accepted in IDLE with a descriptor and at most 13 payload bytes (R124, R102). -/
def acceptExchange (d : Descriptor) (op : Byte) (plen : BitVec 4) (p : Payload) (s : State) : State :=
  { s with
    lat := latchOf op d
    txBuf := bytesVec 18 (encodeFrame op p.toList plen.toNat)
    txIdx := 0#5
    res := ResultRegs.cleared
    fifo := if s.params.rxFlushOnExchange then [] else s.fifo
    state := stTx }

/-- EXCHANGE accepted in IDLE (R124, R125). -/
def exchangeInIdle (op : Byte) (plen : BitVec 4) (p : Payload) (s : State) : State :=
  match registry s.params s.rev op with
  | none => raiseCmdFault .unknownCommand s
  | some d => if 13 < plen.toNat then raiseCmdFault .payloadTooLong s else acceptExchange d op plen p s

/-- One cycle in TX (R103). -/
def txStep (s : State) : State :=
  if s.pins.txReady then
    if s.txIdx = 17#5 then { s with state := stSettle, cnt := 0, txIdx := 0#5 }
    else { s with txIdx := s.txIdx + 1#5 }
  else s

/-- One cycle in SETTLE (R126). -/
def settleStep (s : State) : State :=
  if s.cnt = s.params.settleCycles - 1 then { s with state := stRx, cnt := 0, rxCnt := 0#5 }
  else { s with cnt := s.cnt + 1 }

/-- The RX cycle in which the N-th byte is popped (R129); `s` holds that byte in `rx_buf`. -/
def frameComplete (s : State) : State :=
  let r := decodeResponse (s.rxBuf.toList.take s.lat.n.toNat) s.lat.n.toNat s.lat.l.toNat
  complete (remapCode r.code s.lat.remap) r { s with state := stIdle }

/-- The last RX cycle of the read window without the N-th byte (R130); `got` bytes have been read. -/
def readTimeout (got : BitVec 5) (s : State) : State :=
  complete .errorTimeout (decodeResponse (s.rxBuf.toList.take got.toNat) s.lat.n.toNat s.lat.l.toNat)
    { s with state := stIdle }

/-- One cycle in RX after the pop, if there was one (R127); `got` is `rx_cnt'`. -/
def rxAdvance (popped : Bool) (got : BitVec 5) (s : State) : State :=
  if popped = true ∧ got = s.lat.n then frameComplete s
  else if s.cnt = s.params.timeoutCycles - 1 then readTimeout got s
  else { s with cnt := s.cnt + 1, rxCnt := got }

/-- One cycle in RX (R127): the FIFO's head, if any, goes to `rx_buf[rx_cnt]`. -/
def rxStep (s : State) : State :=
  match s.fifo with
  | [] => rxAdvance false s.rxCnt s
  | b :: rest =>
    rxAdvance true (s.rxCnt + 1#5) { s with fifo := rest, rxBuf := s.rxBuf.setIfInBounds s.rxCnt.toNat b }

/-- One cycle of the exchange in flight (R119, cases TX, SETTLE and RX). In CLOSED and IDLE nothing is in flight and
nothing changes; `state` 5, 6 or 7 is a fault (R35). -/
def exchangeCycle (s : State) : Host.Outcome State Fault Refusal :=
  match s.phase with
  | .closed => .next s
  | .idle => .next s
  | .tx => .next (txStep s)
  | .settle => .next (settleStep s)
  | .rx => .next (rxStep s)
  | .illegal => .fault .illegalState

/-- The common exchange of R121, one cycle of it: accepted in CLOSED (R123) or in IDLE (R124, R125); in TX, SETTLE and RX
the exchange in flight goes on (R73, R120). -/
def commonExchange (op : Byte) (plen : BitVec 4) (p : Payload) (s : State) : Host.Outcome State Fault Refusal :=
  match s.phase with
  | .closed => .next (exchangeInClosed s)
  | .idle => .next (exchangeInIdle op plen p s)
  | .tx => exchangeCycle s
  | .settle => exchangeCycle s
  | .rx => exchangeCycle s
  | .illegal => .fault .illegalState

/-- The line side's part of a cycle (R44, R45): a byte that arrives while a Session was open at the start of the cycle is
appended to the FIFO, after the pop or the flush of `t`; a full FIFO drops it and sets the sticky flag (R163). -/
def capture (s t : State) : State :=
  if s.pins.rxValid = true ∧ s.phase ≠ .closed then
    if t.params.rxFifoDepth ≤ t.fifo.length then { t with fltRxOverflow := true }
    else { t with fifo := t.fifo ++ [s.pins.rxData] }
  else t

/-- The inputs move on to the next edge: the next scripted ones, or free ones (R10, R136; log 1). -/
def State.advance (s : State) : State :=
  match s.future with
  | p :: rest => { s with pins := p, future := rest, cycle := s.cycle + 1 }
  | [] => { s with pins := Config.freePins s.cycle, cycle := s.cycle + 1 }

/-- The inputs at the `k`-th coming edge. -/
def State.pinsAt : Nat → State → Pins
  | 0, s => s.pins
  | k + 1, s => State.pinsAt k s.advance

/-- Every register at its reset value (R33, R174); the parameters and the inputs are no registers. -/
def State.resetRegs (s : State) : State :=
  { State.reset with params := s.params, pins := s.pins, future := s.future, cycle := s.cycle }

/-- What every edge without reset adds to the state action that led from `s` to `t`. -/
def finishCycle (s t : State) : State := (capture s t).advance

/-- An outcome's next state, finished. -/
def finishOutcome (s : State) : Host.Outcome State Fault Refusal → Host.Outcome State Fault Refusal
  | .next t => .next (finishCycle s t)
  | .fault r => .fault r
  | .refused r => .refused r

end Sys2Proof.Machine
end

