-- ==== Sys2Proof/Machine/ExtendedCommands.lean ====
section
/-! DEFINITION. The command opcodes 0x0C..0x14, assigned in the extended revision only (spec/40_command_registry.md R87 to
R95): N = 10, L = `EXT_LEN[op]`, remap = 0. In the legacy revision the common exchange refuses them with
CmdFault(UnknownCommand) (R70). -/

namespace Sys2Proof.Machine

/-- EXT_0C: extended opcode 12 (R87). -/
def execExt0C (p : Payload) (s : State) : Host.Outcome State Fault Refusal := commonExchange 0x0C#8 13#4 p s

/-- EXT_0D: extended opcode 13 (R88). -/
def execExt0D (p : Payload) (s : State) : Host.Outcome State Fault Refusal := commonExchange 0x0D#8 13#4 p s

/-- EXT_0E: extended opcode 14 (R89). -/
def execExt0E (p : Payload) (s : State) : Host.Outcome State Fault Refusal := commonExchange 0x0E#8 13#4 p s

/-- EXT_0F: extended opcode 15 (R90). -/
def execExt0F (p : Payload) (s : State) : Host.Outcome State Fault Refusal := commonExchange 0x0F#8 13#4 p s

/-- EXT_10: extended opcode 16 (R91). -/
def execExt10 (p : Payload) (s : State) : Host.Outcome State Fault Refusal := commonExchange 0x10#8 13#4 p s

/-- EXT_11: extended opcode 17 (R92). -/
def execExt11 (p : Payload) (s : State) : Host.Outcome State Fault Refusal := commonExchange 0x11#8 13#4 p s

/-- EXT_12: extended opcode 18 (R93). -/
def execExt12 (p : Payload) (s : State) : Host.Outcome State Fault Refusal := commonExchange 0x12#8 13#4 p s

/-- EXT_13: extended opcode 19 (R94). -/
def execExt13 (p : Payload) (s : State) : Host.Outcome State Fault Refusal := commonExchange 0x13#8 13#4 p s

/-- EXT_14: extended opcode 20 (R95). -/
def execExt14 (p : Payload) (s : State) : Host.Outcome State Fault Refusal := commonExchange 0x14#8 13#4 p s

end Sys2Proof.Machine
end

