-- ==== Sys2Proof/Machine/LegacyCommands.lean ====
section
/-! DEFINITION. The command opcodes 0x00..0x0B, assigned in both revisions (spec/40_command_registry.md R75 to R86). Each is
the common exchange (R121) of its opcode with its 13 payload bytes; the registry gives N, L and remap, and the result
registers are written at completion (R128). A supplied length below 13 is the same command with trailing zero bytes (R54). -/

namespace Sys2Proof.Machine

/-- RESP_ECHO: resp/echo only (R75; N = 10, L = 0). -/
def execRespEcho (p : Payload) (s : State) : Host.Outcome State Fault Refusal := commonExchange 0x00#8 13#4 p s

/-- SET_FREQ: set frequency (R76; N = 10, L = 0). -/
def execSetFreq (p : Payload) (s : State) : Host.Outcome State Fault Refusal := commonExchange 0x01#8 13#4 p s

/-- SAVE_NTH_FREQ: save the nth frequency (R77; N = 10, L = 0). -/
def execSaveNthFreq (p : Payload) (s : State) : Host.Outcome State Fault Refusal := commonExchange 0x02#8 13#4 p s

/-- FREQ_COUNT: get the saved-frequency count (R78; N = 10, L = 1). -/
def execFreqCount (p : Payload) (s : State) : Host.Outcome State Fault Refusal := commonExchange 0x03#8 13#4 p s

/-- GET_NTH_FREQ: get the nth saved frequency, the one row with remap = 1 (R79; N = 10, L = 4). -/
def execGetNthFreq (p : Payload) (s : State) : Host.Outcome State Fault Refusal := commonExchange 0x04#8 13#4 p s

/-- GET_ID: get the module identifier (R80; N = 28, L = 8). -/
def execGetId (p : Payload) (s : State) : Host.Outcome State Fault Refusal := commonExchange 0x05#8 13#4 p s

/-- GET_HW_VER: get the hardware version (R81; N = 10, L = 1). -/
def execGetHwVer (p : Payload) (s : State) : Host.Outcome State Fault Refusal := commonExchange 0x06#8 13#4 p s

/-- GET_FW_VER: get the firmware version (R82; N = 10, L = 3). -/
def execGetFwVer (p : Payload) (s : State) : Host.Outcome State Fault Refusal := commonExchange 0x07#8 13#4 p s

/-- GET_POST_MULT: get the output-power post-multiplier (R83; N = 10, L = 1). -/
def execGetPostMult (p : Payload) (s : State) : Host.Outcome State Fault Refusal := commonExchange 0x08#8 13#4 p s

/-- REF_CLOCK: reference clock: get in legacy, set in extended (R84; N = 10, L = 3). -/
def execRefClock (p : Payload) (s : State) : Host.Outcome State Fault Refusal := commonExchange 0x09#8 13#4 p s

/-- GET_SERIAL: get the serial number (R85; N = 28, L = 23). -/
def execGetSerial (p : Payload) (s : State) : Host.Outcome State Fault Refusal := commonExchange 0x0A#8 13#4 p s

/-- GET_DIP: get the DIP switch (R86; N = 10, L = 1). -/
def execGetDip (p : Payload) (s : State) : Host.Outcome State Fault Refusal := commonExchange 0x0B#8 13#4 p s

end Sys2Proof.Machine
end

