-- ==== Sys2Proof/Machine/Session.lean ====
section
/-! DEFINITION. The two host commands, OPEN and EXCHANGE (spec/43_session_exchange.md R122 to R125). -/

namespace Sys2Proof.Machine

/-- OPEN: accepted in CLOSED (R122), refused in IDLE as AlreadyOpen (R125); in TX, SETTLE and RX it waits at the port while
the exchange in flight goes on (R120). -/
def execOpen (rev : Revision) (s : State) : Host.Outcome State Fault Refusal :=
  match s.phase with
  | .closed => .next (openInClosed rev s)
  | .idle => .next (raiseCmdFault .alreadyOpen s)
  | .tx => exchangeCycle s
  | .settle => exchangeCycle s
  | .rx => exchangeCycle s
  | .illegal => .fault .illegalState

/-- EXCHANGE: ErrorOpenPort in CLOSED (R123), accepted or refused in IDLE (R124, R125); in TX, SETTLE and RX it waits at the
port while the exchange in flight goes on (R120). -/
def execExchange (op : Byte) (plen : BitVec 4) (p : Payload) (s : State) : Host.Outcome State Fault Refusal :=
  commonExchange op plen p s

end Sys2Proof.Machine
end

