-- ==== Sys2Proof/Machine/Dispatch.lean ====
section
/-! DEFINITION. One cycle of an instruction: one arm per row of spec/opcode_table.json. -/

namespace Sys2Proof.Machine

def exec (i : Instr) (s : State) : Host.Outcome State Fault Refusal :=
  match i with
  | .openSession rev => Sys2Proof.Machine.execOpen rev s
  | .exchange op plen p => Sys2Proof.Machine.execExchange op plen p s
  | .respEcho p => Sys2Proof.Machine.execRespEcho p s
  | .setFreq p => Sys2Proof.Machine.execSetFreq p s
  | .saveNthFreq p => Sys2Proof.Machine.execSaveNthFreq p s
  | .freqCount p => Sys2Proof.Machine.execFreqCount p s
  | .getNthFreq p => Sys2Proof.Machine.execGetNthFreq p s
  | .getId p => Sys2Proof.Machine.execGetId p s
  | .getHwVer p => Sys2Proof.Machine.execGetHwVer p s
  | .getFwVer p => Sys2Proof.Machine.execGetFwVer p s
  | .getPostMult p => Sys2Proof.Machine.execGetPostMult p s
  | .refClock p => Sys2Proof.Machine.execRefClock p s
  | .getSerial p => Sys2Proof.Machine.execGetSerial p s
  | .getDip p => Sys2Proof.Machine.execGetDip p s
  | .ext0C p => Sys2Proof.Machine.execExt0C p s
  | .ext0D p => Sys2Proof.Machine.execExt0D p s
  | .ext0E p => Sys2Proof.Machine.execExt0E p s
  | .ext0F p => Sys2Proof.Machine.execExt0F p s
  | .ext10 p => Sys2Proof.Machine.execExt10 p s
  | .ext11 p => Sys2Proof.Machine.execExt11 p s
  | .ext12 p => Sys2Proof.Machine.execExt12 p s
  | .ext13 p => Sys2Proof.Machine.execExt13 p s
  | .ext14 p => Sys2Proof.Machine.execExt14 p s

end Sys2Proof.Machine
end

