-- ==== Sys2Proof/Decode.lean ====
section
/-! DEFINITION. Decoding and encoding. The decoder reads the bytes of a host command word (15 bytes, bit 0 of the word is
bit 0 of the first byte; R59) or of an outbound frame (18 bytes in wire order; R52), and tells them apart by their number.
It is total on every byte list and refuses by name. The encoder writes the bytes of an instruction from the same tables. -/

namespace Sys2Proof

open Sys2Proof.Machine

/-- Why a byte list is no instruction. -/
inductive DecodeError
  /-- neither 15 bytes (a host command word) nor 18 bytes (a frame) -/
  | badLength
  /-- bit 119 of the 15 bytes is set: the host command word has 119 bits (R59) -/
  | padBit
  /-- `kind` is 2 or 3 (R61) -/
  | reservedKind
  /-- frame bytes 0 and 1 are not FF FE (R52) -/
  | badHeader
  /-- frame byte 2 is not 10 (R53) -/
  | badLengthByte
  /-- frame byte 3 is 21..255, unassigned in both revisions (R60) -/
  | unassignedOpcode
deriving DecidableEq, Repr

/-- `rev` as bit 2 of the host command word (R59). -/
def Revision.toBit : Revision → Nat
  | .legacy => 0
  | .extended => 1

/-- The revision of a bit (R16). -/
def Revision.ofBit (n : Nat) : Revision := if n % 2 = 1 then .extended else .legacy

/-- The row of the opcode table whose frame has the opcode `op` (R60, R75 to R95). -/
def frameRow (op : Byte) (p : Payload) : Option Instr :=
  match op.toNat with
  | 0 => some (.respEcho p)
  | 1 => some (.setFreq p)
  | 2 => some (.saveNthFreq p)
  | 3 => some (.freqCount p)
  | 4 => some (.getNthFreq p)
  | 5 => some (.getId p)
  | 6 => some (.getHwVer p)
  | 7 => some (.getFwVer p)
  | 8 => some (.getPostMult p)
  | 9 => some (.refClock p)
  | 10 => some (.getSerial p)
  | 11 => some (.getDip p)
  | 12 => some (.ext0C p)
  | 13 => some (.ext0D p)
  | 14 => some (.ext0E p)
  | 15 => some (.ext0F p)
  | 16 => some (.ext10 p)
  | 17 => some (.ext11 p)
  | 18 => some (.ext12 p)
  | 19 => some (.ext13 p)
  | 20 => some (.ext14 p)
  | _ => none

/-- The host command word as a number (R59): kind [1:0], rev [2], opcode [10:3], plen [14:11], payload [118:15]. -/
def decodeHostNat (w : Nat) : Except DecodeError Instr :=
  match w % 4 with
  | 0 => .ok (.openSession (Revision.ofBit (w / 4)))
  | 1 => .ok (.exchange (BitVec.ofNat 8 (w / 8)) (BitVec.ofNat 4 (w / 2048)) (bytesVec 13 (leBytes 13 (w / 32768))))
  | _ => .error .reservedKind

/-- An outbound frame in wire order (R52). The checksum, byte 17, is no part of the table's match and mask: it is not
read here (log 6). -/
def decodeFrame (bs : List Byte) : Except DecodeError Instr :=
  if slice bs 0 1 ≠ [0xFF#8, 0xFE#8] then .error .badHeader
  else if bs.getD 2 0#8 ≠ 0x10#8 then .error .badLengthByte
  else
    match frameRow (bs.getD 3 0#8) (bytesVec 13 (slice bs 4 16)) with
    | some i => .ok i
    | none => .error .unassignedOpcode

/-- The instruction that a byte list holds, or why it holds none. -/
def decode (bs : List Byte) : Except DecodeError Instr :=
  if bs.length = 15 then
    if leNat bs < 2 ^ 119 then decodeHostNat (leNat bs) else .error .padBit
  else if bs.length = 18 then decodeFrame bs
  else .error .badLength

/-- The bytes of a host command word, the low byte first (DESIGN CHOICE, log 5: R59 gives the word no byte order). -/
def hostBytes (w : HostWord) : List Byte := leBytes 15 w.toNat

/-- The host command word of an OPEN or an EXCHANGE, as a number; the fields that the block ignores are 0. -/
def encodeHostNat (kind rev opcode plen payload : Nat) : Nat :=
  kind + 4 * rev + 8 * opcode + 2048 * plen + 32768 * payload

/-- The bytes of an instruction: 15 of a host command word, or 18 of a frame. -/
def encode : Instr → List Byte
  | .openSession rev => leBytes 15 (encodeHostNat 0 rev.toBit 0 0 0)
  | .exchange op plen p => leBytes 15 (encodeHostNat 1 0 op.toNat plen.toNat (leNat p.toList))
  | .respEcho p => encodeFrame 0x00#8 p.toList 13
  | .setFreq p => encodeFrame 0x01#8 p.toList 13
  | .saveNthFreq p => encodeFrame 0x02#8 p.toList 13
  | .freqCount p => encodeFrame 0x03#8 p.toList 13
  | .getNthFreq p => encodeFrame 0x04#8 p.toList 13
  | .getId p => encodeFrame 0x05#8 p.toList 13
  | .getHwVer p => encodeFrame 0x06#8 p.toList 13
  | .getFwVer p => encodeFrame 0x07#8 p.toList 13
  | .getPostMult p => encodeFrame 0x08#8 p.toList 13
  | .refClock p => encodeFrame 0x09#8 p.toList 13
  | .getSerial p => encodeFrame 0x0A#8 p.toList 13
  | .getDip p => encodeFrame 0x0B#8 p.toList 13
  | .ext0C p => encodeFrame 0x0C#8 p.toList 13
  | .ext0D p => encodeFrame 0x0D#8 p.toList 13
  | .ext0E p => encodeFrame 0x0E#8 p.toList 13
  | .ext0F p => encodeFrame 0x0F#8 p.toList 13
  | .ext10 p => encodeFrame 0x10#8 p.toList 13
  | .ext11 p => encodeFrame 0x11#8 p.toList 13
  | .ext12 p => encodeFrame 0x12#8 p.toList 13
  | .ext13 p => encodeFrame 0x13#8 p.toList 13
  | .ext14 p => encodeFrame 0x14#8 p.toList 13

/-- Whether a word of `nbits` bits from the opcode table is the first four bytes of a frame: the table reads them as a
32-bit big-endian word in wire order. Every other word is a host command word. -/
def tableWordIsFrame (nbits w : Nat) : Bool := decide (nbits = 32) && decide (w / 65536 = 0xFFFE)

/-- The bytes of an instruction whose `nbits` table bits are `w` and whose other bits are 0. -/
def tableBytes (nbits w : Nat) : List Byte :=
  if tableWordIsFrame nbits w then beBytes 4 w ++ List.replicate 14 0#8 else leBytes 15 w

/-- What the decoder reads from an instruction of spec/opcode_table.json whose table bits are `w`. -/
def decodeTableWord (nbits w : Nat) : Option Instr :=
  match decode (tableBytes nbits w) with
  | .ok i => some i
  | .error _ => none

end Sys2Proof
end

