-- ==== Sys2Proof/Machine/Fetch.lean ====
section
/-! DEFINITION. Which instruction a cycle runs (log 5). The block has no instruction fetch (spec/00_scope.md R12): in CLOSED
and IDLE the instruction is the host command word that the handshake takes (R120), in TX, SETTLE and RX it is the exchange
in flight, whose frame stands in `tx_buf` (R18). -/

namespace Sys2Proof.Machine

/-- A host command is accepted at this edge (R120). -/
def accepts (s : State) : Bool := !s.pins.rst && s.pins.cmdValid && cmdReady s

/-- The bytes of the instruction that this cycle runs, if it runs one. -/
def fetchBytes (s : State) : Option (List Byte) :=
  match s.phase with
  | .closed => if s.pins.cmdValid then some (hostBytes s.pins.cmdWord) else none
  | .idle => if s.pins.cmdValid then some (hostBytes s.pins.cmdWord) else none
  | .tx => some s.txBuf.toList
  | .settle => some s.txBuf.toList
  | .rx => some s.txBuf.toList
  | .illegal => none

/-- What a cycle does when its instruction's bytes decode to none. A host command word decodes to none exactly when its
kind is reserved: CmdFault(ReservedKind) (R125). In TX, SETTLE and RX the exchange goes on whatever `tx_buf` holds. -/
def undecoded (s : State) : Host.Outcome State Fault Refusal :=
  match s.phase with
  | .closed => .next (raiseCmdFault .reservedKind s)
  | .idle => .next (raiseCmdFault .reservedKind s)
  | .tx => exchangeCycle s
  | .settle => exchangeCycle s
  | .rx => exchangeCycle s
  | .illegal => .fault .illegalState

/-- `s` with a host command word presented at the command port of a block that is ready for it. -/
def presentHostWord (w : HostWord) (s : State) : State :=
  { s with
    pins := { s.pins with rst := false, cmdValid := true, cmdWord := w }
    state := if s.phase = .closed then stClosed else stIdle }

/-- `s` with an exchange in flight at its first byte: the frame in `tx_buf`, its opcode's descriptor latched. -/
def presentFrame (bs : List Byte) (s : State) : State :=
  { s with
    pins := { s.pins with rst := false }
    lat := latchForOpcode s.params (bs.getD 3 0#8)
    txBuf := bytesVec 18 bs
    txIdx := 0#5
    state := stTx }

/-- `s` with the instruction of `nbits` table bits `w` where the next step fetches it. -/
def presentTableWord (s : State) (nbits w : Nat) : State :=
  if tableWordIsFrame nbits w then presentFrame (tableBytes nbits w) s
  else presentHostWord (BitVec.ofNat 119 w) s

end Sys2Proof.Machine
end

