-- ==== Sys2Proof/Machine/Step.lean ====
section
/-! DEFINITION. The step: one rising edge of `clk` (spec/43_session_exchange.md R119). -/

namespace Sys2Proof.Machine

/-- The state action of a cycle without reset: the instruction that the cycle runs, or what it does without one. -/
def cycleAction (s : State) : Host.Outcome State Fault Refusal :=
  match fetchBytes s with
  | none => exchangeCycle s
  | some bs =>
    match decode bs with
    | .ok i => exec i s
    | .error _ => undecoded s

/-- One rising edge of `clk` (R119): reset has priority (R174), then the state action, the FIFO's push and the next inputs. -/
def step (s : State) : Host.Outcome State Fault Refusal :=
  if s.pins.rst then .next s.resetRegs.advance else finishOutcome s (cycleAction s)

/-- `s` with the instruction of `nbits` table bits `w` stored where the next step fetches it: at the command port, or in
`tx_buf` as the exchange in flight (log 5). -/
def State.withFetchWord (s : State) (nbits w : Nat) : State := presentTableWord s nbits w

end Sys2Proof.Machine
end

