-- ==== Sys2Proof/Machine/HostCalls.lean ====
section
/-! DEFINITION. The host's typed calls (spec/44_host_payload_decode.md R140, R148; spec/30_encoding.md R66): the host checks
the arguments of a call first, and only a call that passes puts a command at the command port. Outside the block: no step of the
machine calls one of these functions. -/

namespace Sys2Proof.Machine

/-- A call of the host's typed API; its arguments are signed, since R148 speaks of a negative index (N6). -/
inductive HostCall
  /-- the pseudo-command `GET op` (R66), for any opcode byte (DESIGN CHOICE, log 12) -/
  | get (op : Byte)
  /-- the pseudo-command `SET_FREQ k` (R66) -/
  | setFreq (kilohertz : Int)
  /-- save-nth-freq, opcode 2 (R77). DESIGN CHOICE (log 12): R77 and N6 speak of an index and a value without a layout; this call
  takes the index alone, and a request with a value of its own is a `raw` call of opcode 2 -/
  | saveNthFreq (index : Int)
  /-- get-nth-freq, opcode 4 (R79) -/
  | getNthFreq (index : Int)
  /-- the set of the output configuration, an enum (R144) -/
  | setOutputConfig (value : Int)
  /-- the set of the reference-clock source, an enum (R144) -/
  | setRefClockSource (value : Int)
  /-- any other operation: the caller supplies the bytes (I7) -/
  | raw (op : Byte) (plen : BitVec 4) (p : Payload)
deriving DecidableEq, Repr

/-- Why the host rejects a call before any command reaches the block. None of these is a Result Code (R148). -/
inductive InvalidArgument
  /-- a negative index (R148) -/
  | negativeIndex
  /-- an enum value out of range on a set (R148) -/
  | enumOutOfRange
  /-- a frequency that is no unsigned 32-bit value (R66, R139; DEDUCED, log 12) -/
  | frequencyOutOfRange
  /-- `EXT_NAME` gives the command no opcode (DESIGN CHOICE, log 12) -/
  | noOpcode
deriving DecidableEq, Repr

/-- An index argument: a negative one is invalid (R148). -/
def checkIndex (n : Int) : Option Nat := if 0 ≤ n then some n.toNat else none

/-- An enum argument of a set: a value that is no byte of `ENUM_MAP` is out of range (R148, R144). -/
def checkEnum {α : Type} (map : Byte → Option α) (n : Int) : Option Nat :=
  if 0 ≤ n ∧ n < 256 ∧ (map (BitVec.ofNat 8 n.toNat)).isSome then some n.toNat else none

/-- A frequency argument in kHz: an unsigned 32-bit value (R66, R139). -/
def checkFrequency (n : Int) : Option Nat := if 0 ≤ n ∧ n < 2 ^ 32 then some n.toNat else none

/-- The opcode that `EXT_NAME` gives an extended command (R96): the first one, where it gives several. -/
def opcodeOf (hp : HostParams) (c : ExtCommand) : Option Byte :=
  (hp.extName.toList.idxOf? c).map (fun i => BitVec.ofNat 8 (12 + i))

/-- The request of an opcode with a checked argument; its layout is the host's (N6). -/
def requestOf (hp : HostParams) (op : Byte) (n : Nat) : Instr :=
  .exchange op (hp.argumentPayload op n).1 (hp.argumentPayload op n).2

/-- The set of an enum: its argument is checked before the command's opcode is looked for. -/
def enumCommand {α : Type} (hp : HostParams) (map : Byte → Option α) (c : ExtCommand) (n : Int) :
    Except InvalidArgument Instr :=
  match checkEnum map n with
  | none => .error .enumOutOfRange
  | some k =>
    match opcodeOf hp c with
    | none => .error .noOpcode
    | some op => .ok (requestOf hp op k)

/-- A call of an opcode that takes an index. -/
def indexCommand (hp : HostParams) (op : Byte) (n : Int) : Except InvalidArgument Instr :=
  match checkIndex n with
  | none => .error .negativeIndex
  | some k => .ok (requestOf hp op k)

/-- The host command of a call, or why the host rejects the call (R66, R148). -/
def commandOf (hp : HostParams) : HostCall → Except InvalidArgument Instr
  | .get op => .ok (pseudoGet op)
  | .setFreq v =>
    match (checkFrequency v).bind pseudoSetFreq with
    | some i => .ok i
    | none => .error .frequencyOutOfRange
  | .saveNthFreq n => indexCommand hp 0x02#8 n
  | .getNthFreq n => indexCommand hp 0x04#8 n
  | .setOutputConfig n => enumCommand hp hp.outputConfigMap .setOutputConfig n
  | .setRefClockSource n => enumCommand hp hp.refClockSourceMap .setRefClockConfig n
  | .raw op plen p => .ok (.exchange op plen p)

/-- The command word of an OPEN or an EXCHANGE (R59). -/
def hostWordOf (i : Instr) : HostWord := BitVec.ofNat 119 (leNat (encode i))

/-- The command port after a call: the command of a call that passes the check, no command after a rejected one (R148). -/
def callPins (hp : HostParams) (c : HostCall) (p : Pins) : Pins :=
  match commandOf hp c with
  | .ok i => { p with cmdValid := true, cmdWord := hostWordOf i }
  | .error _ => { p with cmdValid := false }

end Sys2Proof.Machine
end

