-- ==== Sys2Proof/Machine/HostDecode.lean ====
section
/-! DEFINITION. The contracts of the software around the block after an exchange and around a run
(spec/44_host_payload_decode.md R138 to R147, R149, R150; R148 is in HostCalls.lean). They lie outside the block: they are
functions that a host applies to the result registers, and no step of the machine calls one. -/

namespace Sys2Proof.Machine

/-- Why the host has no typed value. -/
inductive HostDecodeError
  /-- the code is not Success: the value is absent and the host reports the code (R138, R146) -/
  | absent (code : ResultCode)
  /-- the payload is shorter than the decode needs (R139, R147) -/
  | tooShort
  /-- a post-multiplier byte of 0 (R142) -/
  | zeroMultiplier
  /-- bytes that are not UTF-8 (R143) -/
  | badText
  /-- a byte outside the enum's legal values (R144) -/
  | notInEnum
  /-- no decode of the 3-byte reference clock is given (R147) -/
  | noRefclkDecode
  /-- a payload length for which no decode is stated (R145 states one-byte values) -/
  | noStatedDecode
  /-- an opcode above 20 that is not get-internal-serial-number's: the source names no other command without a row (R96) -/
  | unnamedCommand
deriving DecidableEq, Repr

/-- A typed value. -/
inductive HostValue
  | nothing
  | kilohertz (v : Nat)
  | version (text : List Char)
  | multiplier (v : Nat)
  | text (chars : List Char)
  | output (c : OutputConfig)
  | clockSource (c : RefClockSource)
  | rawByte (v : Nat)
deriving DecidableEq, Repr

/-- The decimal spelling of a number, without leading zeros (R141). -/
def decimal (n : Nat) : List Char := Nat.toDigits 10 n

/-- `major.minor.patch` of three payload bytes (R141). -/
def versionText (a b c : Byte) : List Char :=
  decimal a.toNat ++ ['.'] ++ decimal b.toNat ++ ['.'] ++ decimal c.toNat

/-- `2^(p−1)` for a payload byte `p ≥ 1` (R142). -/
def postMultiplier (p : Byte) : Except HostDecodeError Nat :=
  if p.toNat = 0 then .error .zeroMultiplier else .ok (2 ^ (p.toNat - 1))

/-- UTF-8 (R143): `need` continuation bytes are still to come, `acc` holds the bits so far, `lo` is the least code point that
a sequence of this length may spell. -/
def utf8From : Nat → Nat → Nat → List Byte → Option (List Char)
  | 0, _, _, [] => some []
  | _ + 1, _, _, [] => none
  | 0, _, _, b :: bs =>
    if b.toNat < 0x80 then (utf8From 0 0 0 bs).map (Char.ofNat b.toNat :: ·)
    else if 0xC0 ≤ b.toNat ∧ b.toNat < 0xE0 then utf8From 1 (b.toNat - 0xC0) 0x80 bs
    else if 0xE0 ≤ b.toNat ∧ b.toNat < 0xF0 then utf8From 2 (b.toNat - 0xE0) 0x800 bs
    else if 0xF0 ≤ b.toNat ∧ b.toNat < 0xF8 then utf8From 3 (b.toNat - 0xF0) 0x10000 bs
    else none
  | n + 1, acc, lo, b :: bs =>
    if b.toNat < 0x80 ∨ 0xC0 ≤ b.toNat then none
    else if n = 0 then
      if lo ≤ acc * 64 + (b.toNat - 0x80) ∧ (acc * 64 + (b.toNat - 0x80)).isValidChar then
        (utf8From 0 0 0 bs).map (Char.ofNat (acc * 64 + (b.toNat - 0x80)) :: ·)
      else none
    else utf8From n (acc * 64 + (b.toNat - 0x80)) lo bs

/-- The text of a string field: every payload byte, zero bytes included (R143). -/
def utf8Text (bs : List Byte) : Except HostDecodeError (List Char) :=
  match utf8From 0 0 0 bs with
  | some t => .ok t
  | none => .error .badText

/-- A frequency (R139). -/
def decodeKilohertz (bs : List Byte) : Except HostDecodeError HostValue :=
  match le32 bs 0 with
  | some v => .ok (.kilohertz v)
  | none => .error .tooShort

/-- The reference clock of opcode 9 (R139, R147): four bytes are a 32-bit value; three bytes need `REFCLK_DECODE`. -/
def decodeRefClock (hp : HostParams) (bs : List Byte) : Except HostDecodeError HostValue :=
  match le32 bs 0 with
  | some v => .ok (.kilohertz v)
  | none =>
    match bs, hp.refclkDecode with
    | [a, b, c], some f => .ok (.kilohertz (f a b c))
    | [_, _, _], none => .error .noRefclkDecode
    | _, _ => .error .tooShort

/-- A one-byte payload with no stated decode (R145); an empty payload has no value. -/
def decodeRaw (bs : List Byte) : Except HostDecodeError HostValue :=
  match bs with
  | [] => .ok .nothing
  | [b] => .ok (.rawByte b.toNat)
  | _ => .error .noStatedDecode

/-- An enumerated config (R144); an empty payload has no value. -/
def decodeEnum {α : Type} (map : Byte → Option α) (mk : α → HostValue) (bs : List Byte) :
    Except HostDecodeError HostValue :=
  match bs with
  | [] => .ok .nothing
  | [b] =>
    match map b with
    | some v => .ok (mk v)
    | none => .error .notInEnum
  | _ => .error .noStatedDecode

/-- A 32-bit value where the payload holds one (R139), otherwise a byte with no stated decode (R145). -/
def decodeWide (bs : List Byte) : Except HostDecodeError HostValue :=
  match le32 bs 0 with
  | some v => .ok (.kilohertz v)
  | none => decodeRaw bs

/-- The decode of an extended command by its name (R139, R144, R145). DESIGN CHOICE (log 12): the spec does not say what the
one-byte reply of a set of an enumerated config holds; here it is decoded as the enum, as the reply of the get is, and not as the
raw byte of R145. -/
def decodeExtended (hp : HostParams) (c : ExtCommand) (bs : List Byte) : Except HostDecodeError HostValue :=
  match c with
  | .setOutputConfig => decodeEnum hp.outputConfigMap .output bs
  | .getOutputConfig => decodeEnum hp.outputConfigMap .output bs
  | .setRefClockConfig => decodeEnum hp.refClockSourceMap .clockSource bs
  | .getRefClockConfig => decodeEnum hp.refClockSourceMap .clockSource bs
  | .setOutputPower => decodeRaw bs
  | .getOutputPower => decodeRaw bs
  | .getFrequency => decodeWide bs
  | .getLockStatus => decodeRaw bs
  | .refClock => decodeWide bs

/-- The typed value of a payload, by the opcode that was sent (R139 to R147). DESIGN CHOICE (log 12): the meaning of opcode 10 in the
other revision is open (N21, I3), and a registry may give it another row (log 3); here its payload is decoded as text (R143) whatever
the row and the revision. Above 20 there is only get-internal-serial-number, where `REGISTRY` has a row for it (R96, N5, I27): its
payload is text (R143). -/
def decodePayload (hp : HostParams) (op : Byte) (bs : List Byte) : Except HostDecodeError HostValue :=
  match op.toNat with
  | 0 => .ok .nothing
  | 1 => .ok .nothing
  | 2 => .ok .nothing
  | 3 => decodeRaw bs
  | 4 => decodeKilohertz bs
  | 5 => (utf8Text bs).map .text
  | 6 => decodeRaw bs
  | 7 =>
    match bs with
    | [a, b, c] => .ok (.version (versionText a b c))
    | _ => .error .tooShort
  | 8 =>
    match bs with
    | p :: _ => (postMultiplier p).map .multiplier
    | [] => .error .tooShort
  | 9 => decodeRefClock hp bs
  | 10 => (utf8Text bs).map .text
  | 11 => decodeRaw bs
  | n =>
    match hp.extName[n - 12]? with
    | some c => decodeExtended hp c bs
    | none => if hp.internalSerialOpcode = some op then (utf8Text bs).map .text else .error .unnamedCommand

/-- The typed value of a completed exchange of the opcode `op`: only on Success (R138, R146). -/
def hostDecode (hp : HostParams) (op : Byte) (r : ResultRegs) : Except HostDecodeError HostValue :=
  if r.code = .success then decodePayload hp op (r.payload.toList.take r.plen.toNat) else .error (.absent r.code)

/-- A port that the enumerator lists (R149). DESIGN CHOICE (log 12): R149's record has only the device identifier and the
serial number and does not say where the device name, the map's key, comes from; here the enumerator's record holds it. -/
structure Port where
  name : List Char
  deviceIdentifier : List Char
  serialNumber : List Char
deriving DecidableEq, Repr

/-- Discovery (R149): the ports whose serial number fits the pattern, in insertion order; the pattern is not in source.
DESIGN CHOICE (log 12): R149 does not say what the map holds when two listed ports have the same device name; here the map is
a list of pairs that keeps both, and the first one is the default. -/
def discover (pattern : List Char → Bool) (ports : List Port) : List (List Char × List Char) :=
  (ports.filter (fun p => pattern p.serialNumber)).map (fun p => (p.name, p.deviceIdentifier))

/-- The port that OPEN is aimed at: the given one, or the first entry in insertion order (R149). DESIGN CHOICE (log 12): R149 does
not say whether a given port is a device name to look up in the map or an identifier; here it is the identifier, without a lookup. -/
def openPort (given : Option (List Char)) (found : List (List Char × List Char)) : Option (List Char) :=
  match given with
  | some p => some p
  | none => found.head?.map Prod.snd

/-- The exit code of the command line (R150): the Result Code does not matter. -/
def cliExitCode (connected argumentsValid : Bool) : Nat := if connected && argumentsValid then 0 else 1

end Sys2Proof.Machine
end

