-- ==== Sys2Proof/Safety.lean ====
section
/-! DEFINITION. What the claims are about: runs, the bytes that go out, good final states (spec/10_state.md R26), and the
invariant of the reachable states. -/

namespace Sys2Proof.Machine

/-- `k` edges from `s`. -/
def runFor (k : Nat) (s : State) : Host.Outcome State Fault Refusal := Host.Core.run Sys2Proof.core k s

/-- The bytes that the transmitter takes during the next `k` edges, in order (R38, R43). -/
def sentIn : Nat → State → List Byte
  | 0, _ => []
  | k + 1, s =>
    (sentNow s).toList ++
      match step s with
      | .next t => sentIn k t
      | .fault _ => []
      | .refused _ => []

/-- The bytes that the line side delivers during the next `k` edges, in order (R136). -/
def arrivalsIn : Nat → State → List Byte
  | 0, _ => []
  | k + 1, s => (if s.pins.rxValid then [s.pins.rxData] else []) ++ arrivalsIn k s.advance

/-- No reset during the next `k` edges. -/
abbrev NoReset (k : Nat) (s : State) : Prop := ∀ j, j < k → (State.pinsAt j s).rst = false

/-- The transmitter takes a byte at each of the next `k` edges. -/
abbrev TxAlwaysReady (k : Nat) (s : State) : Prop := ∀ j, j < k → (State.pinsAt j s).txReady = true

/-- A good final state. R26 says only that a faulted state is never one. DESIGN CHOICE (log 7): the spec defines the term
nowhere, and the model also asks for no exchange in flight (`cmd_ready` = 1) and for a result to read (`rsp_valid` = 1), so that
the reset state is none. -/
def State.goodFinal (s : State) : Bool := cmdReady s && s.res.valid && !s.faulted

/-- `t` is `u` after the rest of an edge without reset that started in `s`: a byte that arrived while a Session was open is
appended to the FIFO, or dropped with `flt_rx_overflow` set where the FIFO is full (R44, R45, R163), and every other register is
that of `u`. The inputs, the model's own, are those of the next edge. -/
abbrev AfterEdge (s u t : State) : Prop :=
  t = { u with
    fifo :=
      if s.pins.rxValid = true ∧ s.phase ≠ .closed ∧ u.fifo.length < u.params.rxFifoDepth then
        u.fifo ++ [s.pins.rxData]
      else u.fifo
    fltRxOverflow :=
      u.fltRxOverflow ||
        decide (s.pins.rxValid = true ∧ s.phase ≠ .closed ∧ u.params.rxFifoDepth ≤ u.fifo.length)
    pins := State.pinsAt 1 u
    future := u.future.tail
    cycle := u.cycle + 1 }

/-- The frame in `tx_buf` is an outbound frame of the opcode `op`, closed by its LRC-8 (R52). -/
def frameIsFor (op : Byte) (buf : Vector Byte 18) : Bool :=
  decide (buf.toList = encodeFrame op (slice buf.toList 4 16) 13)

/-- What the result registers satisfy in every reachable state (R22 to R25, R128, R160). -/
structure ResultRegs.Coherent (r : ResultRegs) : Prop where
  invalid_cleared : r.valid = false → r = ResultRegs.cleared
  plen_le : r.plen.toNat ≤ 23
  zero_above : ∀ i, r.plen.toNat ≤ i → r.payload.toList.getD i 0#8 = 0#8
  no_payload : r.payloadValid = false → r.plen = 0#5
  payload_has_status : r.payloadValid = true → r.statusValid = true
  no_status : r.statusValid = false → r.status = 0#8
  code_raw : r.code = r.rawCode ∨ (r.rawCode = .errorGeneric ∧ r.code = .errorNoSavedFrequency)
  raw_not_remapped : r.rawCode ≠ .errorNoSavedFrequency
  no_warning : r.code ≠ .warningFrequencyOutOfRange

/-- The invariant of the reachable states. -/
structure State.Inv (s : State) : Prop where
  legal : s.phase ≠ .illegal
  tx_idx_le : s.txIdx.toNat ≤ 17
  tx_idx_zero : s.phase ≠ .tx → s.txIdx = 0#5
  descriptor : s.busy = true → (registry s.params s.rev s.lat.op).map (latchOf s.lat.op) = some s.lat
  frame : s.busy = true → frameIsFor s.lat.op s.txBuf = true
  pending : s.busy = true → s.res.valid = false
  settle_cnt : s.phase = .settle → s.cnt < s.params.settleCycles
  window_cnt : s.phase = .rx → s.cnt < s.params.timeoutCycles
  rx_cnt : s.phase = .rx → s.rxCnt.toNat < s.lat.n.toNat
  fifo_le : s.fifo.length ≤ s.params.rxFifoDepth
  closed_fifo : s.phase = .closed → s.fifo = []
  idle_result : s.phase = .idle → s.res.valid = true
  result : s.res.Coherent

end Sys2Proof.Machine
end

