-- ==== Sys2Proof/WellFormed.lean ====
section
/-! DEFINITION. Which instructions are legal encodings (spec/30_encoding.md R59, R60, R61). An EXCHANGE that fails a
check still has a meaning: in IDLE the block refuses it with CmdFault, in CLOSED it completes with ErrorOpenPort. -/

namespace Sys2Proof

/-- At most 13 payload bytes are supplied (R59: `plen` 0..13; R61: 14 and 15 are illegal). -/
def Instr.plenLegal : Instr → Bool
  | .exchange _ plen _ => decide (plen.toNat ≤ 13)
  | _ => true

/-- The opcode of an EXCHANGE is assigned in some revision of the default registry (R60: 21..255 are unassigned in both). -/
def Instr.opcodeLegal : Instr → Bool
  | .exchange op _ _ => decide (op.toNat ≤ 20)
  | _ => true

/-- The command exists in the revision `rev` of the default registry (R72: opcodes 12..20 exist in the extended revision only). -/
def Instr.existsIn (rev : Revision) : Instr → Bool
  | .exchange op _ _ => decide (op.toNat < 12) || (decide (op.toNat ≤ 20) && decide (rev = .extended))
  | .ext0C _ | .ext0D _ | .ext0E _ | .ext0F _ | .ext10 _ | .ext11 _ | .ext12 _ | .ext13 _ | .ext14 _ =>
    decide (rev = .extended)
  | .openSession _ | .respEcho _ | .setFreq _ | .saveNthFreq _ | .freqCount _ | .getNthFreq _ | .getId _
  | .getHwVer _ | .getFwVer _ | .getPostMult _ | .refClock _ | .getSerial _ | .getDip _ => true

/-- A legal encoding, whatever the revision of the Session. -/
def Instr.wellFormed (i : Instr) : Bool := i.plenLegal && i.opcodeLegal

end Sys2Proof
end

