-- ==== Sys2Proof/Certificates/Slice0/Obligations.lean ====
section
/-! DEFINITION. The statements about the machine, from the numbered rules of spec/. -/

open Sys2Proof Sys2Proof.Machine

/-! ### Encoding -/

/-- Every instruction is read back from its own bytes, with every operand at every value (R52, R59; that
a frame and a host command word are told apart by their length is the model's choice, log 5). -/
def Obligations.DecodeOfEncode : Prop :=
  ∀ i : Instr, decode (encode i) = .ok i

/-- A frame whose last byte is the LRC-8 of bytes 2..16 is the encoding of what it decodes to (R52; the
decoder itself does not read that byte, log 6). -/
def Obligations.EncodeOfDecodedFrame : Prop :=
  ∀ (bs : List Byte) (i : Instr), bs.length = 18 → bs.getD 17 0#8 = lrc8 (slice bs 2 16) → decode bs = .ok i →
    encode i = bs

/-- The fields of the host command word stand where R59 puts them; kinds 2 and 3 decode to nothing (R61). -/
def Obligations.HostWordFields : Prop :=
  ∀ w : HostWord,
    (w.extractLsb' 0 2 = 0#2 → w.extractLsb' 2 1 = 0#1 → decode (hostBytes w) = .ok (.openSession .legacy)) ∧
    (w.extractLsb' 0 2 = 0#2 → w.extractLsb' 2 1 = 1#1 → decode (hostBytes w) = .ok (.openSession .extended)) ∧
    (w.extractLsb' 0 2 = 1#2 →
      ∃ p : Payload, decode (hostBytes w) = .ok (.exchange (w.extractLsb' 3 8) (w.extractLsb' 11 4) p) ∧
        ∀ i, i < 13 → p.toList.getD i 0#8 = w.extractLsb' (15 + 8 * i) 8) ∧
    (w.extractLsb' 0 2 = 2#2 ∨ w.extractLsb' 0 2 = 3#2 → decode (hostBytes w) = .error .reservedKind)

/-- A frame with the right header and length byte decodes by its opcode: 0..20 give the row whose frame has the same first
17 bytes, 21..255 are refused (R52, R53, R60). A wrong header or length byte is refused (the refusals' names are the model's, log 6). -/
def Obligations.FrameFieldsDecode : Prop :=
  ∀ bs : List Byte, bs.length = 18 →
    (slice bs 0 2 = [0xFF#8, 0xFE#8, 0x10#8] →
      ((bs.getD 3 0#8).toNat ≤ 20 → ∃ i, decode bs = .ok i ∧ (encode i).take 17 = bs.take 17) ∧
      (20 < (bs.getD 3 0#8).toNat → decode bs = .error .unassignedOpcode)) ∧
    (slice bs 0 1 ≠ [0xFF#8, 0xFE#8] → decode bs = .error .badHeader) ∧
    (slice bs 0 1 = [0xFF#8, 0xFE#8] → bs.getD 2 0#8 ≠ 0x10#8 → decode bs = .error .badLengthByte)

/-- Three frames written out from the spec's vectors in wire order (V1, V7, E6), and two host command words, P1's EXCHANGE and OPEN
extended, written out from R59's bit positions. That a host command word is 15 bytes with the low byte first is the model's choice
(log 5, DESIGN CHOICE), no part of R59. -/
def Obligations.SampleWordsDecode : Prop :=
  decode [0xFF#8, 0xFE#8, 0x10#8, 0x01#8, 0xA0#8, 0x86#8, 0x01#8, 0x00#8, 0x00#8, 0x00#8, 0x00#8, 0x00#8, 0x00#8, 0x00#8,
      0x00#8, 0x00#8, 0x00#8, 0xC8#8] = .ok (.setFreq (bytesVec 13 [0xA0#8, 0x86#8, 0x01#8, 0x00#8])) ∧
  decode [0xFF#8, 0xFE#8, 0x10#8, 0x07#8, 0x01#8, 0x02#8, 0x03#8, 0x00#8, 0x00#8, 0x00#8, 0x00#8, 0x00#8, 0x00#8, 0x00#8,
      0x00#8, 0x00#8, 0x00#8, 0xE3#8] = .ok (.getFwVer (bytesVec 13 [0x01#8, 0x02#8, 0x03#8])) ∧
  decode [0xFF#8, 0xFE#8, 0x10#8, 0x10#8, 0x00#8, 0x00#8, 0x00#8, 0x00#8, 0x00#8, 0x00#8, 0x00#8, 0x00#8, 0x00#8, 0x00#8,
      0x00#8, 0x00#8, 0x00#8, 0xE0#8] = .ok (.ext10 (bytesVec 13 [])) ∧
  decode [0x04#8, 0x00#8, 0x00#8, 0x00#8, 0x00#8, 0x00#8, 0x00#8, 0x00#8, 0x00#8, 0x00#8, 0x00#8, 0x00#8, 0x00#8, 0x00#8,
      0x00#8] = .ok (.openSession .extended) ∧
  decode [0x09#8, 0x20#8, 0x50#8, 0xC3#8, 0x00#8, 0x00#8, 0x00#8, 0x00#8, 0x00#8, 0x00#8, 0x00#8, 0x00#8, 0x00#8, 0x00#8,
      0x00#8] = .ok (.exchange 0x01#8 4#4 (bytesVec 13 [0xA0#8, 0x86#8, 0x01#8, 0x00#8]))

/-! ### The checksum and the frames -/

/-- The three forms of LRC-8 agree for every byte sequence (R98). -/
def Obligations.LrcFormsAgree : Prop :=
  ∀ s : List Byte,
    ((lrc8 s).toNat : Int) = (-(byteSum s : Int)) % 256 ∧
    (lrc8 s).toNat = (256 - byteSum s % 256) % 256 ∧
    lrc8Acc s = lrc8 s

/-- The checksum closes the sum to 0 mod 256, and that is when a frame passes the test (R99). -/
def Obligations.LrcClosesTheSum : Prop :=
  (∀ s : List Byte, (byteSum s + (lrc8 s).toNat) % 256 = 0) ∧
  (∀ f : List Byte, 3 ≤ f.length →
    (lrc8 (slice f 2 (f.length - 2)) = f.getD (f.length - 1) 0#8 ↔ byteSum (slice f 2 (f.length - 1)) % 256 = 0))

/-- Every change of one covered byte is detected, no reordering of the covered bytes is (R100). -/
def Obligations.LrcDetection : Prop :=
  (∀ (before after : List Byte) (a b : Byte), a ≠ b → lrc8 (before ++ a :: after) ≠ lrc8 (before ++ b :: after)) ∧
  (∀ s t : List Byte, s.Perm t → lrc8 s = lrc8 t)

/-- The layout of an outbound frame, byte by byte (R52), and of its payload field: the supplied bytes first, then zeros
(R54). -/
def Obligations.EncodeFrameLayout : Prop :=
  ∀ (op : Byte) (p : List Byte) (k : Nat), k ≤ 13 → p.length = k →
    (encodeFrame op p k).length = 18 ∧
    (encodeFrame op p k).getD 0 0#8 = 0xFF#8 ∧
    (encodeFrame op p k).getD 1 0#8 = 0xFE#8 ∧
    (encodeFrame op p k).getD 2 0#8 = 0x10#8 ∧
    (encodeFrame op p k).getD 3 0#8 = op ∧
    slice (encodeFrame op p k) 4 16 = p ++ List.replicate (13 - k) 0#8 ∧
    (encodeFrame op p k).getD 17 0#8 = lrc8 (slice (encodeFrame op p k) 2 16)

/-- Encoding, then validating the frame at length 18, gives back the opcode as the status and the payload (R117). -/
def Obligations.EncodedFrameRoundTrip : Prop :=
  (∀ (op : Byte) (p : Payload) (l : Nat), l ≤ 13 →
    (op.toNat ≤ 0xFD →
      decodeResponse (encodeFrame op p.toList 13) 18 l =
        { code := .success, statusValid := true, status := op, payloadValid := true, payload := p.toList.take l }) ∧
    (op = 0xFF#8 →
      decodeResponse (encodeFrame op p.toList 13) 18 l =
        { code := .errorGeneric, statusValid := true, status := op, payloadValid := true, payload := p.toList.take l }) ∧
    (op = 0xFE#8 →
      decodeResponse (encodeFrame op p.toList 13) 18 l =
        { code := .errorChecksumOnSend, statusValid := true, status := op, payloadValid := false, payload := [] })) ∧
  (∀ (ps : Params) (rev : Revision) (op : Byte), registry ps rev op ≠ none → op.toNat ≤ 0xFD)

/-- A right checksum never gives ErrorChecksumOnReceive; a covered sum that is not 0 mod 256 always does (R118). -/
def Obligations.ChecksumVerdict : Prop :=
  ∀ (raw : List Byte) (n l : Nat), 3 ≤ n →
    (lrc8 (slice raw 2 (n - 2)) = raw.getD (n - 1) 0#8 → (decodeResponse raw n l).code ≠ .errorChecksumOnReceive) ∧
    (raw.length = n → byteSum (slice raw 2 (n - 1)) % 256 ≠ 0 →
      (decodeResponse raw n l).code = .errorChecksumOnReceive)

/-- The fixed precedence of the checks: length, then checksum, then status 0xFE, then status 0xFF, then Success (R112). -/
def Obligations.ResponsePrecedence : Prop :=
  ∀ (raw : List Byte) (n l : Nat),
    ((decodeResponse raw n l).code = .errorTimeout ↔ raw.length ≠ n) ∧
    ((decodeResponse raw n l).code = .errorChecksumOnReceive ↔
      raw.length = n ∧ lrc8 (slice raw 2 (n - 2)) ≠ raw.getD (n - 1) 0#8) ∧
    ((decodeResponse raw n l).code = .errorChecksumOnSend ↔
      raw.length = n ∧ lrc8 (slice raw 2 (n - 2)) = raw.getD (n - 1) 0#8 ∧ raw.getD 3 0#8 = 0xFE#8) ∧
    ((decodeResponse raw n l).code = .errorGeneric ↔
      raw.length = n ∧ lrc8 (slice raw 2 (n - 2)) = raw.getD (n - 1) 0#8 ∧ raw.getD 3 0#8 = 0xFF#8) ∧
    ((decodeResponse raw n l).code = .success ↔
      raw.length = n ∧ lrc8 (slice raw 2 (n - 2)) = raw.getD (n - 1) 0#8 ∧ (raw.getD 3 0#8).toNat ≤ 0xFD)

/-- Which parts of the record are valid, by its code, and what they hold (R24, R25, D23). -/
def Obligations.ResponseFieldsByCode : Prop :=
  ∀ (raw : List Byte) (n l : Nat), l + 5 ≤ n →
    ((decodeResponse raw n l).statusValid = true ↔
      (decodeResponse raw n l).code = .errorChecksumOnSend ∨ (decodeResponse raw n l).code = .errorGeneric ∨
        (decodeResponse raw n l).code = .success) ∧
    ((decodeResponse raw n l).payloadValid = true ↔
      (decodeResponse raw n l).code = .errorGeneric ∨ (decodeResponse raw n l).code = .success) ∧
    ((decodeResponse raw n l).statusValid = true → (decodeResponse raw n l).status = raw.getD 3 0#8) ∧
    ((decodeResponse raw n l).statusValid = false → (decodeResponse raw n l).status = 0#8) ∧
    ((decodeResponse raw n l).payloadValid = true →
      (decodeResponse raw n l).payload.length = l ∧
      ∀ i, i < l → (decodeResponse raw n l).payload.getD i 0#8 = raw.getD (4 + i) 0#8) ∧
    ((decodeResponse raw n l).payloadValid = false → (decodeResponse raw n l).payload = [])

/-- The two header bytes are never looked at, and neither are the length byte and the padding beyond their share of the
sum (R56, R115). -/
def Obligations.ValidatorIgnoresHeader : Prop :=
  (∀ (a b a' b' : Byte) (rest : List Byte) (n l : Nat), rest ≠ [] →
    decodeResponse (a :: b :: rest) n l = decodeResponse (a' :: b' :: rest) n l) ∧
  (∀ (h h' : List Byte) (st : Byte) (pl pad pad' : List Byte) (c c' : Byte) (n : Nat),
    h.length = 3 → h'.length = 3 → pad.length = pad'.length → n = 5 + pl.length + pad.length →
    c = lrc8 (slice (h ++ st :: (pl ++ pad)) 2 (n - 2)) → c' = lrc8 (slice (h' ++ st :: (pl ++ pad')) 2 (n - 2)) →
    decodeResponse (h ++ st :: (pl ++ pad) ++ [c]) n pl.length =
      decodeResponse (h' ++ st :: (pl ++ pad') ++ [c']) n pl.length)

/-- What `complete` writes: the result registers, field by field, and nothing else (R128). -/
def Obligations.CompleteWritesResult : Prop :=
  ∀ (code : ResultCode) (r : Response) (s : State), r.payload.length ≤ 23 →
    complete code r s = { s with res := (complete code r s).res } ∧
    (complete code r s).res.code = code ∧
    (complete code r s).res.rawCode = r.code ∧
    (complete code r s).res.statusValid = r.statusValid ∧
    (complete code r s).res.status = r.status ∧
    (complete code r s).res.payloadValid = r.payloadValid ∧
    (complete code r s).res.plen.toNat = (if r.payloadValid then r.payload.length else 0) ∧
    (∀ i, i < 23 →
      (complete code r s).res.payload.toList.getD i 0#8 = if i < r.payload.length then r.payload.getD i 0#8 else 0#8) ∧
    (complete code r s).res.valid = true

/-! ### The Command Registry -/

/-- Every descriptor fits its frame, and no ill-formed registry can be built in (R69). -/
def Obligations.RegistryFitsFrames : Prop :=
  (∀ (ps : Params) (rev : Revision) (op : Byte) (d : Descriptor), registry ps rev op = some d →
    d.len.toNat ≤ (responseLength d.variant).toNat - 5) ∧
  (∀ rows : List RegistryRow,
    (∃ r ∈ rows, (responseLength r.desc.variant).toNat - 5 < r.desc.len.toNat) → ¬ ∃ ps : Params, ps.registry = rows)

/-- The default registry assigns 0..11 in the legacy revision and 0..20 in the extended one (R72), and the extended opcodes
have the length `EXT_LEN` (R87 to R95). -/
def Obligations.DefaultRegistryRevisions : Prop :=
  ∀ (extLen : Vector (Fin 2) 9) (op : Byte),
    (registryLookup (defaultRegistry extLen) .legacy op ≠ none ↔ op.toNat ≤ 11) ∧
    (registryLookup (defaultRegistry extLen) .extended op ≠ none ↔ op.toNat ≤ 20) ∧
    (12 ≤ op.toNat → ∀ d, registryLookup (defaultRegistry extLen) .extended op = some d →
      d = { opcode := op, len := BitVec.ofNat 5 (extLen.toList.getD (op.toNat - 12) 0).val, variant := .standard,
            remap := false })

/-- Every registry the block can be built with has the remap at opcode 4 and nowhere else, and names a row by its own opcode
(R67, R70). -/
def Obligations.RemapOnlyAtOpcodeFour : Prop :=
  ∀ (ps : Params) (rev : Revision) (op : Byte) (d : Descriptor), registry ps rev op = some d →
    (d.remap = true ↔ op = 0x04#8) ∧ d.opcode = op

/-- The status sentinels 0xFE and 0xFF are no opcodes in any registry and revision; an EXCHANGE of one is refused in IDLE, and no
frame in flight has one in its opcode position (R62). -/
def Obligations.SentinelsAreNoOpcodes : Prop :=
  (∀ (ps : Params) (rev : Revision) (op : Byte), op = 0xFE#8 ∨ op = 0xFF#8 → registry ps rev op = none) ∧
  (∀ (s : State) (op : Byte) (plen : BitVec 4) (p : Payload), op = 0xFE#8 ∨ op = 0xFF#8 → s.phase = .idle →
    exec (.exchange op plen p) s = .next { s with fltCmd := true }) ∧
  (∀ s : State, s.Inv → s.busy = true →
    s.txBuf.toList.getD 3 0#8 ≠ 0xFE#8 ∧ s.txBuf.toList.getD 3 0#8 ≠ 0xFF#8)

/-! ### The host commands -/

/-- OPEN accepted in CLOSED: the Session opens in the given revision when the link is available, and is refused with
ErrorOpenPort when it is not; nothing else changes (R122). -/
def Obligations.OpenCompletes : Prop :=
  ∀ (rev : Revision) (s : State), s.phase = .closed →
    (s.pins.linkOk = true →
      exec (.openSession rev) s = .next { s with
        rev := rev
        state := 1#3
        res := { valid := true, code := .success, rawCode := .success, statusValid := false, status := 0#8,
                 payloadValid := false, plen := 0#5, payload := bytesVec 23 [] } }) ∧
    (s.pins.linkOk = false →
      exec (.openSession rev) s = .next { s with
        res := { valid := true, code := .errorOpenPort, rawCode := .errorOpenPort, statusValid := false, status := 0#8,
                 payloadValid := false, plen := 0#5, payload := bytesVec 23 [] } })

/-- EXCHANGE accepted in CLOSED completes with ErrorOpenPort whatever its fields; the state stays CLOSED and nothing is sent (R123).
So does each of the 21 command opcodes: that they are instructions of their own, EXCHANGEs of their opcode, is the model's choice
(log 5, DESIGN CHOICE), so the second clause is no rule of the spec. -/
def Obligations.ExchangeWithoutSession : Prop :=
  ∀ s : State, s.phase = .closed →
    (∀ (op : Byte) (plen : BitVec 4) (p : Payload),
      exec (.exchange op plen p) s = .next { s with
        res := { valid := true, code := .errorOpenPort, rawCode := .errorOpenPort, statusValid := false, status := 0#8,
                 payloadValid := false, plen := 0#5, payload := bytesVec 23 [] } }) ∧
    (∀ (op : Byte) (p : Payload) (i : Instr), frameRow op p = some i →
      exec i s = .next { s with
        res := { valid := true, code := .errorOpenPort, rawCode := .errorOpenPort, statusValid := false, status := 0#8,
                 payloadValid := false, plen := 0#5, payload := bytesVec 23 [] } }) ∧
    txValid s = false

/-- EXCHANGE accepted in IDLE with a descriptor and at most 13 payload bytes: the descriptor is latched, the frame stands in
`tx_buf`, the result registers are cleared, the FIFO is emptied if the parameter says so, and the block enters TX (R124). -/
def Obligations.ExchangeAccepted : Prop :=
  ∀ (op : Byte) (plen : BitVec 4) (p : Payload) (d : Descriptor) (s : State), s.phase = .idle →
    registry s.params s.rev op = some d → plen.toNat ≤ 13 →
    ∃ t, exec (.exchange op plen p) s = .next t ∧
      t = { s with
        lat := { op := op, n := if d.variant = .large then 28#5 else 10#5, l := d.len, remap := d.remap }
        txBuf := t.txBuf
        txIdx := 0#5
        res := { valid := false, code := .success, rawCode := .success, statusValid := false, status := 0#8,
                 payloadValid := false, plen := 0#5, payload := bytesVec 23 [] }
        fifo := if s.params.rxFlushOnExchange then [] else s.fifo
        state := 2#3 } ∧
      t.txBuf.toList = encodeFrame op p.toList plen.toNat

/-- The host commands that are refused in IDLE set `flt_cmd` and change nothing else: OPEN, an EXCHANGE of an opcode that the
revision lacks, and an EXCHANGE of 14 or 15 payload bytes (R61, R125, R162). -/
def Obligations.RefusedCommands : Prop :=
  ∀ s : State, s.phase = .idle →
    (∀ rev, exec (.openSession rev) s = .next { s with fltCmd := true }) ∧
    (∀ op plen p, registry s.params s.rev op = none →
      exec (.exchange op plen p) s = .next { s with fltCmd := true }) ∧
    (∀ op plen p, 14 ≤ plen.toNat → exec (.exchange op plen p) s = .next { s with fltCmd := true })

/-! ### The command opcodes -/

/-- The twelve opcodes of both revisions (RESP_ECHO, SET_FREQ, SAVE_NTH_FREQ, FREQ_COUNT, GET_NTH_FREQ, GET_ID, GET_HW_VER,
GET_FW_VER, GET_POST_MULT, REF_CLOCK, GET_SERIAL, GET_DIP) in IDLE: the registry's N, L and remap are latched, the frame stands in
`tx_buf`, and the block enters TX. They are the table's N and L for every row but opcodes 0 and 10 in every registry, and for those
two in a default registry; opcode 0 has L 0 in every registry (R74 to R86). What a registry may hold at opcodes 0 and 10 is the
model's reading of R74 (log 3); each command is the EXCHANGE of its opcode with its 13 payload bytes (log 5). -/
def Obligations.LegacyOpcodesAccepted : Prop :=
  ∀ row ∈ [(Instr.respEcho, 0x00#8, 10#5, 0#5, false), (Instr.setFreq, 0x01#8, 10#5, 0#5, false),
      (Instr.saveNthFreq, 0x02#8, 10#5, 0#5, false), (Instr.freqCount, 0x03#8, 10#5, 1#5, false),
      (Instr.getNthFreq, 0x04#8, 10#5, 4#5, true), (Instr.getId, 0x05#8, 28#5, 8#5, false),
      (Instr.getHwVer, 0x06#8, 10#5, 1#5, false), (Instr.getFwVer, 0x07#8, 10#5, 3#5, false),
      (Instr.getPostMult, 0x08#8, 10#5, 1#5, false), (Instr.refClock, 0x09#8, 10#5, 3#5, false),
      (Instr.getSerial, 0x0A#8, 28#5, 23#5, false), (Instr.getDip, 0x0B#8, 10#5, 1#5, false)],
    ∀ (p : Payload) (s : State), s.phase = .idle →
      ∃ t d, exec (row.1 p) s = .next t ∧ registry s.params s.rev row.2.1 = some d ∧
        t = { s with
          lat := { op := row.2.1, n := if d.variant = .large then 28#5 else 10#5, l := d.len, remap := row.2.2.2.2 }
          txBuf := t.txBuf
          txIdx := 0#5
          res := ResultRegs.cleared
          fifo := if s.params.rxFlushOnExchange then [] else s.fifo
          state := 2#3 } ∧
        t.txBuf.toList =
          [0xFF#8, 0xFE#8, 0x10#8, row.2.1] ++ p.toList ++ [lrc8 ([0x10#8, row.2.1] ++ p.toList)] ∧
        ((row.2.1 ≠ 0x00#8 ∧ row.2.1 ≠ 0x0A#8) ∨ (∃ extLen, s.params.registry = defaultRegistry extLen) →
          t.lat.n = row.2.2.1 ∧ t.lat.l = row.2.2.2.1) ∧
        (row.2.1 = 0x00#8 → t.lat.l = 0#5)

/-- The nine opcodes of the extended revision (EXT_0C to EXT_14) in IDLE: in the extended revision N is 10, remap is 0 and L is
the registry's, `EXT_LEN` in the default registry; in the legacy revision they are refused with `flt_cmd` (R87 to R95). That L is at most 5 in
every registry is R69's bound and C13. -/
def Obligations.ExtendedOpcodesAccepted : Prop :=
  ∀ row ∈ [(Instr.ext0C, 0x0C#8), (Instr.ext0D, 0x0D#8), (Instr.ext0E, 0x0E#8), (Instr.ext0F, 0x0F#8),
      (Instr.ext10, 0x10#8), (Instr.ext11, 0x11#8), (Instr.ext12, 0x12#8), (Instr.ext13, 0x13#8), (Instr.ext14, 0x14#8)],
    ∀ (p : Payload) (s : State), s.phase = .idle →
      (s.rev = .extended →
        ∃ t d, exec (row.1 p) s = .next t ∧ registry s.params .extended row.2 = some d ∧
          t = { s with
            lat := { op := row.2, n := 10#5, l := d.len, remap := false }
            txBuf := t.txBuf
            txIdx := 0#5
            res := ResultRegs.cleared
            fifo := if s.params.rxFlushOnExchange then [] else s.fifo
            state := 2#3 } ∧
          t.txBuf.toList = [0xFF#8, 0xFE#8, 0x10#8, row.2] ++ p.toList ++ [lrc8 ([0x10#8, row.2] ++ p.toList)] ∧
          t.lat.l = d.len ∧ d.len.toNat ≤ 5 ∧
          (∀ extLen, s.params.registry = defaultRegistry extLen →
            t.lat.l.toNat = (extLen.toList.getD (row.2.toNat - 12) 0).val)) ∧
      (s.rev = .legacy → exec (row.1 p) s = .next { s with fltCmd := true })

/-- An EXCHANGE of an opcode of the table with at most 13 supplied bytes is that row's command with the padded payload, in
every state (R54, R71, R73). That a row of the table is an instruction of its own, with the 13-byte field, is the model's
choice (log 5). -/
def Obligations.ExchangeIsItsRow : Prop :=
  ∀ (op : Byte) (plen : BitVec 4) (p : Payload) (i : Instr) (s : State), plen.toNat ≤ 13 →
    frameRow op (bytesVec 13 (p.toList.take plen.toNat)) = some i →
    exec (.exchange op plen p) s = exec i s

/-! ### The cycles of an exchange -/

/-- One cycle in TX, whatever command waits at the port: the presented byte is `tx_buf[tx_idx]`, and a handshake moves on to
the next byte, or after byte 17 to SETTLE (R103, R120). -/
def Obligations.TransmitCycle : Prop :=
  ∀ (i : Instr) (s : State), s.phase = .tx →
    txValid s = true ∧ txData s = s.txBuf.toList.getD s.txIdx.toNat 0#8 ∧
    exec i s = .next (
      if s.pins.txReady then
        if s.txIdx = 17#5 then { s with state := 3#3, cnt := 0, txIdx := 0#5 } else { s with txIdx := s.txIdx + 1#5 }
      else s)

/-- One cycle in SETTLE, whatever arrives and whatever waits at the port (R126, R120). -/
def Obligations.SettleCycle : Prop :=
  ∀ (i : Instr) (s : State), s.phase = .settle →
    exec i s = .next (
      if s.cnt = s.params.settleCycles - 1 then { s with state := 4#3, cnt := 0, rxCnt := 0#5 }
      else { s with cnt := s.cnt + 1 })

/-- One cycle in RX with a byte in the FIFO: it goes to `rx_buf[rx_cnt]`. If it is the N-th, the frame is decoded, remapped and
latched, in the last cycle of the window too (R129, R131); otherwise the last cycle of the window ends in ErrorTimeout
(R130), and any other goes on (R127). -/
def Obligations.ReadCycleWithByte : Prop :=
  ∀ (i : Instr) (s : State) (b : Byte) (rest : List Byte), s.phase = .rx → s.fifo = b :: rest →
    exec i s = .next (
      if s.rxCnt + 1#5 = s.lat.n then
        { s with
          fifo := rest
          rxBuf := s.rxBuf.setIfInBounds s.rxCnt.toNat b
          state := 1#3
          res := resultOf
            (remapCode (decodeResponse ((s.rxBuf.setIfInBounds s.rxCnt.toNat b).toList.take s.lat.n.toNat) s.lat.n.toNat
              s.lat.l.toNat).code s.lat.remap)
            (decodeResponse ((s.rxBuf.setIfInBounds s.rxCnt.toNat b).toList.take s.lat.n.toNat) s.lat.n.toNat
              s.lat.l.toNat) }
      else if s.cnt = s.params.timeoutCycles - 1 then
        { s with
          fifo := rest
          rxBuf := s.rxBuf.setIfInBounds s.rxCnt.toNat b
          state := 1#3
          res := resultOf .errorTimeout
            (decodeResponse ((s.rxBuf.setIfInBounds s.rxCnt.toNat b).toList.take (s.rxCnt + 1#5).toNat) s.lat.n.toNat
              s.lat.l.toNat) }
      else
        { s with
          fifo := rest
          rxBuf := s.rxBuf.setIfInBounds s.rxCnt.toNat b
          cnt := s.cnt + 1
          rxCnt := s.rxCnt + 1#5 })

/-- One cycle in RX with an empty FIFO: the last one of the window ends in ErrorTimeout with nothing valid, any other only
counts (R127, R130). The bound on `rx_cnt` is a clause of the invariant. -/
def Obligations.ReadCycleWithoutByte : Prop :=
  ∀ (i : Instr) (s : State), s.phase = .rx → s.fifo = [] → s.rxCnt.toNat < s.lat.n.toNat →
    exec i s = .next (
      if s.cnt = s.params.timeoutCycles - 1 then
        { s with
          state := 1#3
          res := { valid := true, code := .errorTimeout, rawCode := .errorTimeout, statusValid := false, status := 0#8,
                   payloadValid := false, plen := 0#5, payload := bytesVec 23 [] } }
      else { s with cnt := s.cnt + 1 })

/-- The remap: ErrorNoSavedFrequency is reported exactly where the raw code is ErrorGeneric and `remap_lat` is set, and in every
other completion the two codes are equal (R23, R114). -/
def Obligations.RemapFiresOnGenericError : Prop :=
  ∀ (i : Instr) (s t : State), s.phase = .rx → s.fifo ≠ [] → s.rxCnt + 1#5 = s.lat.n → exec i s = .next t →
    (t.res.code = .errorNoSavedFrequency ↔ s.lat.remap = true ∧ t.res.rawCode = .errorGeneric) ∧
    (t.res.code ≠ .errorNoSavedFrequency → t.res.code = t.res.rawCode)

/-- `state` 5, 6 or 7 is a fault for every instruction and for every edge without reset, and no step reaches one from a legal
state (R35). -/
def Obligations.IllegalStateFaults : Prop :=
  (∀ (i : Instr) (s : State), 5 ≤ s.state.toNat → exec i s = .fault .illegalState) ∧
  (∀ s : State, 5 ≤ s.state.toNat → s.pins.rst = false → step s = .fault .illegalState) ∧
  (∀ s t : State, s.state.toNat ≤ 4 → step s = .next t → t.state.toNat ≤ 4) ∧
  State.reset.state.toNat ≤ 4

/-! ### The step -/

/-- A step without reset at a state whose fetched bytes decode to an instruction runs that instruction (R119): to the instruction's
next state the edge adds the push of an arrived byte and the next inputs, and changes no other register. Which bytes a cycle fetches is the model's choice (log 5). -/
def Obligations.StepRunsDecodedInstruction : Prop :=
  ∀ (s : State) (bs : List Byte) (i : Instr), s.pins.rst = false → fetchBytes s = some bs → decode bs = .ok i →
    step s = finishOutcome s (exec i s) ∧
    (∀ u, exec i s = .next u → ∃ t, step s = .next t ∧ AfterEdge s u t)

/-- The cycles of CLOSED and IDLE that run no instruction (R61, R119, R125). Without a command no register changes but the FIFO and
`flt_rx_overflow`, by the push of an arrived byte. A command of a reserved kind sets `flt_cmd` as well. A call that the host rejects
for its argument, a negative index or an enum value outside `ENUM_MAP`, puts no command at the port, so its edge is one without a
command (R148); that a frequency that is no unsigned 32-bit value is such an argument is the model's reading (log 12). -/
def Obligations.CyclesWithoutInstruction : Prop :=
  ∀ s : State, s.pins.rst = false → s.phase = .closed ∨ s.phase = .idle →
    (s.pins.cmdValid = false → ∃ t, step s = .next t ∧ AfterEdge s s t) ∧
    (s.pins.cmdValid = true → s.pins.cmdWord.extractLsb' 0 2 = 2#2 ∨ s.pins.cmdWord.extractLsb' 0 2 = 3#2 →
      ∃ t, step s = .next t ∧ AfterEdge s { s with fltCmd := true } t) ∧
    (∀ (hp : HostParams) (c : HostCall) (n : Int),
      ((c = .saveNthFreq n ∨ c = .getNthFreq n) ∧ n < 0) ∨
      (c = .setOutputConfig n ∧ ∀ b : Byte, n = b.toNat → hp.outputConfigMap b = none) ∨
      (c = .setRefClockSource n ∧ ∀ b : Byte, n = b.toNat → hp.refClockSourceMap b = none) ∨
      (c = .setFreq n ∧ (n < 0 ∨ 2 ^ 32 ≤ n)) →
      (∃ e, commandOf hp c = .error e) ∧
      ∃ t, step { s with pins := callPins hp c s.pins } = .next t ∧ AfterEdge s s t)

/-- A reset edge puts every register at the value of R33, in any state and whatever the other inputs (R174). The registers
`fifo_rd` and `fifo_mem` are not held: the FIFO is a list, as R21 allows. -/
def Obligations.ResetEdge : Prop :=
  ∀ s : State, s.pins.rst = true →
    ∃ t, step s = .next t ∧
      t.state = 0#3 ∧ t.rev = .legacy ∧ t.lat = { op := 0#8, n := 0#5, l := 0#5, remap := false } ∧
      t.txBuf.toList = List.replicate 18 0#8 ∧ t.txIdx = 0#5 ∧ t.cnt = 0 ∧
      t.rxBuf.toList = List.replicate 28 0#8 ∧ t.rxCnt = 0#5 ∧ t.fifo = [] ∧
      t.res.valid = false ∧ t.res.code = .success ∧ t.res.rawCode = .success ∧
      t.res.statusValid = false ∧ t.res.status = 0#8 ∧
      t.res.payloadValid = false ∧ t.res.plen = 0#5 ∧ t.res.payload.toList = List.replicate 23 0#8 ∧
      t.fltCmd = false ∧ t.fltRxOverflow = false ∧ statusWord t = 0#32

/-- The receive FIFO over one edge without reset: flush, pop and push as R44 orders them, capture only while a Session is open
(R45), and the overflow flag (R163). That the flush belongs to the acceptance of R124 alone, IDLE to TX, and not to an EXCHANGE that
R125 refuses, is the model's reading (log 8, DEDUCED). The bound on the FIFO is a clause of the invariant. -/
def Obligations.FifoUpdate : Prop :=
  ∀ s t : State, s.pins.rst = false → s.fifo.length ≤ s.params.rxFifoDepth → step s = .next t →
    ∀ pop push flush : Bool,
      (pop = true ↔ s.phase = .rx ∧ 0 < s.fifo.length) →
      (push = true ↔ s.pins.rxValid = true ∧ s.phase ≠ .closed) →
      (flush = true ↔ s.params.rxFlushOnExchange = true ∧ s.phase = .idle ∧ t.phase = .tx) →
      (flush = true → t.fifo = (if push then [s.pins.rxData] else []) ∧ t.fltRxOverflow = s.fltRxOverflow) ∧
      (flush = false →
        t.fifo =
          (let rest := if pop then s.fifo.tail else s.fifo
           if push then if rest.length = s.params.rxFifoDepth then rest else rest ++ [s.pins.rxData] else rest) ∧
        t.fltRxOverflow =
          (s.fltRxOverflow ||
            (push && decide ((if pop then s.fifo.tail else s.fifo).length = s.params.rxFifoDepth))))

/-- While an exchange is in flight the command port has no influence on the step (R120, R179). -/
def Obligations.CommandPortIgnoredInFlight : Prop :=
  ∀ (s : State) (v : Bool) (w : HostWord), s.busy = true →
    step { s with pins := { s.pins with cmdValid := v, cmdWord := w } } = step s

/-- The fault flags are sticky: no edge without reset clears one (R26, R167). -/
def Obligations.FaultsAreSticky : Prop :=
  ∀ s t : State, s.pins.rst = false → step s = .next t →
    (s.fltCmd = true → t.fltCmd = true) ∧ (s.fltRxOverflow = true → t.fltRxOverflow = true)

/-- A Session lasts until reset, and its revision with it (R16, R137). -/
def Obligations.SessionLastsUntilReset : Prop :=
  ∀ s t : State, s.pins.rst = false → step s = .next t → s.phase ≠ .closed → t.phase ≠ .closed ∧ t.rev = s.rev

/-- Only an OPEN that is accepted in CLOSED with the link available writes `rev`, with the bit 2 of its word, or leaves CLOSED
(R16, R122). -/
def Obligations.RevisionWrittenByOpen : Prop :=
  ∀ s t : State, s.pins.rst = false → step s = .next t → s.phase = .closed →
    (t.phase = .idle ↔ s.pins.cmdValid = true ∧ s.pins.cmdWord.extractLsb' 0 2 = 0#2 ∧ s.pins.linkOk = true) ∧
    (t.phase = .idle → (t.rev = .extended ↔ s.pins.cmdWord.extractLsb' 2 1 = 1#1)) ∧
    (t.phase ≠ .idle → t.phase = .closed ∧ t.rev = s.rev)

/-- The result registers change only at a completion (out of RX, or of a command in CLOSED) and where an EXCHANGE is accepted in
IDLE, which clears them (R22, R165, R184, D36). -/
def Obligations.ResultStability : Prop :=
  ∀ s t : State, s.pins.rst = false → step s = .next t → t.res ≠ s.res →
    (s.phase = .closed ∧ s.pins.cmdValid = true ∧ t.res.valid = true) ∨
    (s.phase = .idle ∧ t.phase = .tx ∧ t.res = ResultRegs.cleared) ∨
    (s.phase = .rx ∧ t.phase = .idle ∧ t.res.valid = true)

/-- The latched descriptor and `tx_buf` are written only where an EXCHANGE is accepted in IDLE (R17, R18, R105), and `rx_buf`
only by a pop (R19). -/
def Obligations.BuffersWrittenOnlyWhere : Prop :=
  ∀ s t : State, s.pins.rst = false → step s = .next t →
    (t.lat ≠ s.lat ∨ t.txBuf ≠ s.txBuf → s.phase = .idle ∧ t.phase = .tx) ∧
    (t.rxBuf ≠ s.rxBuf → s.phase = .rx ∧ s.fifo ≠ [])

/-- Every step keeps the parameters and moves the inputs on by one edge, a reset edge too: the fields that are the
model's own (logs 1 and 2). -/
def Obligations.ParametersAndInputs : Prop :=
  ∀ s t : State, step s = .next t →
    t.params = s.params ∧ (∀ k, State.pinsAt k t = State.pinsAt (k + 1) s) ∧ t.cycle = s.cycle + 1

/-! ### The invariant -/

/-- The reset state satisfies the invariant. -/
def Obligations.ResetSatisfiesInvariant : Prop :=
  State.reset.Inv

/-- Every step keeps the invariant. -/
def Obligations.StepKeepsInvariant : Prop :=
  ∀ s t : State, s.Inv → step s = .next t → t.Inv

/-- A state that satisfies the invariant always has a next state (R173), and no run from reset stops, whatever the parameters and
the inputs: the fault of R35 is not reached, and the invariant holds all along the run. -/
def Obligations.InvariantStepsOn : Prop :=
  (∀ s : State, s.Inv → ∃ t, step s = .next t) ∧
  (∀ (ps : Params) (now : Pins) (coming : List Pins) (k : Nat),
    ∃ t, runFor k { State.reset with params := ps, pins := now, future := coming } = .next t ∧ t.Inv)

/-- The block never produces WarningFrequencyOutOfRange: no edge brings it into a result register (R160). -/
def Obligations.WarningNeverProduced : Prop :=
  ∀ s t : State, step s = .next t →
    s.res.code ≠ .warningFrequencyOutOfRange → s.res.rawCode ≠ .warningFrequencyOutOfRange →
    t.res.code ≠ .warningFrequencyOutOfRange ∧ t.res.rawCode ≠ .warningFrequencyOutOfRange

/-! ### Whole phases and whole exchanges -/

/-- With the transmitter always ready, 18 edges from the first byte send exactly the frame, in index order, and lead to the
first cycle of SETTLE (R38, R47, R103). -/
def Obligations.FrameGoesOut : Prop :=
  ∀ s : State, s.phase = .tx → s.txIdx = 0#5 → NoReset 18 s → TxAlwaysReady 18 s →
    sentIn 18 s = s.txBuf.toList ∧
    ∃ t, runFor 18 s = .next t ∧ t.phase = .settle ∧ t.cnt = 0 ∧ t.txIdx = 0#5 ∧ t.txBuf = s.txBuf ∧ t.lat = s.lat ∧
      t.rev = s.rev ∧ t.res = s.res

/-- A transmitter that takes nothing holds the block in TX at the same byte for any number of edges, without a result and with
`cmd_ready` = 0 (R104, R105). -/
def Obligations.TransmitStall : Prop :=
  ∀ (n : Nat) (s : State), s.phase = .tx → NoReset n s → (∀ j, j < n → (State.pinsAt j s).txReady = false) →
    sentIn n s = [] ∧
    ∃ t, runFor n s = .next t ∧ t.phase = .tx ∧ t.txIdx = s.txIdx ∧ t.txBuf = s.txBuf ∧ t.res = s.res ∧
      cmdReady t = false ∧ txData t = txData s

/-- SETTLE lasts exactly `SETTLE_CYCLES` cycles, whatever arrives (R126, R178). -/
def Obligations.SettleLength : Prop :=
  ∀ s : State, s.phase = .settle → s.cnt = 0 → NoReset s.params.settleCycles s →
    (∀ k, k < s.params.settleCycles → ∃ t, runFor k s = .next t ∧ t.phase = .settle ∧ t.cnt = k) ∧
    ∃ t, runFor s.params.settleCycles s = .next t ∧ t.phase = .rx ∧ t.cnt = 0 ∧ t.rxCnt = 0#5 ∧ t.lat = s.lat

/-- With all N bytes in the FIFO when RX starts, N edges later the result registers hold the remapped DECODE of those bytes and
the block is in IDLE; later bytes stay in the FIFO (R127, R129). -/
def Obligations.WholeResponseIsRead : Prop :=
  ∀ s : State, s.phase = .rx → s.cnt = 0 → s.rxCnt = 0#5 → 1 ≤ s.lat.n.toNat → s.lat.n.toNat ≤ 28 →
    s.lat.n.toNat ≤ s.fifo.length → s.fifo.length ≤ s.params.rxFifoDepth → NoReset s.lat.n.toNat s →
    ∃ t, runFor s.lat.n.toNat s = .next t ∧ t.phase = .idle ∧
      t.res = resultOf
        (remapCode (decodeResponse (s.fifo.take s.lat.n.toNat) s.lat.n.toNat s.lat.l.toNat).code s.lat.remap)
        (decodeResponse (s.fifo.take s.lat.n.toNat) s.lat.n.toNat s.lat.l.toNat) ∧
      t.fifo = s.fifo.drop s.lat.n.toNat ++ arrivalsIn s.lat.n.toNat s ∧
      t.fltRxOverflow = s.fltRxOverflow

/-- If fewer than N bytes are there by the window's last edge but one, the exchange ends after exactly `TIMEOUT_CYCLES` edges
of RX in ErrorTimeout with nothing valid, and the block is in IDLE (R107, R130, R155). -/
def Obligations.ShortResponseTimesOut : Prop :=
  ∀ s : State, s.phase = .rx → s.cnt = 0 → s.rxCnt = 0#5 → s.lat.n.toNat ≤ 28 →
    (s.fifo ++ arrivalsIn (s.params.timeoutCycles - 1) s).length < s.lat.n.toNat → NoReset s.params.timeoutCycles s →
    ∃ t, runFor s.params.timeoutCycles s = .next t ∧ t.phase = .idle ∧
      t.res = { valid := true, code := .errorTimeout, rawCode := .errorTimeout, statusValid := false, status := 0#8,
                payloadValid := false, plen := 0#5, payload := bytesVec 23 [] }

/-- The earliest completion of an exchange (R121, R133): accepted at an edge in IDLE, with a transmitter that is always ready and
all N response bytes in the FIFO when RX starts, its result is latched 19 + SETTLE_CYCLES + N edges later, it is the remapped
DECODE of the first N bytes of the FIFO, and no result shows and no command is taken before. -/
def Obligations.ExchangeEarliestCompletion : Prop :=
  ∀ (s : State) (op : Byte) (plen : BitVec 4) (p : Payload) (d : Descriptor) (n : Nat) (q : List Byte),
    s.phase = .idle → s.pins.cmdValid = true → decode (hostBytes s.pins.cmdWord) = .ok (.exchange op plen p) →
    registry s.params s.rev op = some d → plen.toNat ≤ 13 → n = (responseLength d.variant).toNat →
    NoReset (19 + s.params.settleCycles + n) s → (∀ j, 1 ≤ j → j ≤ 18 → (State.pinsAt j s).txReady = true) →
    q = (if s.params.rxFlushOnExchange then [] else s.fifo) ++ arrivalsIn (19 + s.params.settleCycles) s →
    n ≤ q.length → q.length ≤ s.params.rxFifoDepth →
    (∃ t, runFor (19 + s.params.settleCycles + n) s = .next t ∧ t.phase = .idle ∧
      t.res = resultOf (remapCode (decodeResponse (q.take n) n d.len.toNat).code d.remap)
        (decodeResponse (q.take n) n d.len.toNat)) ∧
    (∀ k, 1 ≤ k → k < 19 + s.params.settleCycles + n →
      ∃ u, runFor k s = .next u ∧ u.res.valid = false ∧ cmdReady u = false)

/-- The latest completion of an exchange (R133): when fewer than N bytes are there, those that waited in the FIFO before the
acceptance counted unless it flushes them, it ends in ErrorTimeout 19 + SETTLE_CYCLES +
TIMEOUT_CYCLES edges after its acceptance, and no result shows before. -/
def Obligations.ExchangeLatestCompletion : Prop :=
  ∀ (s : State) (op : Byte) (plen : BitVec 4) (p : Payload) (d : Descriptor),
    s.phase = .idle → s.pins.cmdValid = true → decode (hostBytes s.pins.cmdWord) = .ok (.exchange op plen p) →
    registry s.params s.rev op = some d → plen.toNat ≤ 13 →
    NoReset (19 + s.params.settleCycles + s.params.timeoutCycles) s →
    (∀ j, 1 ≤ j → j ≤ 18 → (State.pinsAt j s).txReady = true) →
    ((if s.params.rxFlushOnExchange then [] else s.fifo)
      ++ arrivalsIn (18 + s.params.settleCycles + s.params.timeoutCycles) s).length < (responseLength d.variant).toNat →
    (∃ t, runFor (19 + s.params.settleCycles + s.params.timeoutCycles) s = .next t ∧ t.phase = .idle ∧
      t.res = { valid := true, code := .errorTimeout, rawCode := .errorTimeout, statusValid := false, status := 0#8,
                payloadValid := false, plen := 0#5, payload := bytesVec 23 [] }) ∧
    (∀ k, 1 ≤ k → k < 19 + s.params.settleCycles + s.params.timeoutCycles →
      ∃ u, runFor k s = .next u ∧ u.res.valid = false ∧ cmdReady u = false)

/-- Replay stability (R134): two exchanges of the same command and payload, accepted with an empty FIFO under the same inputs,
show the same result registers, the same control state and the same transmit side after every number of edges, whatever the
earlier exchanges left in the other registers. -/
def Obligations.ReplayStability : Prop :=
  ∀ (s₁ s₂ : State) (op : Byte) (plen : BitVec 4) (p : Payload) (d : Descriptor),
    s₁.phase = .idle → s₂.phase = .idle → s₁.params = s₂.params → s₁.rev = s₂.rev → s₁.fifo = [] → s₂.fifo = [] →
    (∀ k, State.pinsAt k s₁ = State.pinsAt k s₂) →
    s₁.pins.rst = false → s₁.pins.cmdValid = true →
    decode (hostBytes s₁.pins.cmdWord) = .ok (.exchange op plen p) → registry s₁.params s₁.rev op = some d →
    plen.toNat ≤ 13 →
    ∀ k, 1 ≤ k →
      ∃ t₁ t₂, runFor k s₁ = .next t₁ ∧ runFor k s₂ = .next t₂ ∧
        t₁.res = t₂.res ∧ t₁.state = t₂.state ∧ t₁.rev = t₂.rev ∧ t₁.fifo = t₂.fifo ∧
        txValid t₁ = txValid t₂ ∧ txData t₁ = txData t₂

/-! ### Outputs and the host's decodes -/

/-- The handshake outputs are functions of the state (R31). -/
def Obligations.HandshakeOutputs : Prop :=
  ∀ s : State,
    (cmdReady s = true ↔ s.state = 0#3 ∨ s.state = 1#3) ∧
    (txValid s = true ↔ s.state = 2#3) ∧
    (s.state = 2#3 → txData s = s.txBuf.toList.getD s.txIdx.toNat 0#8) ∧
    (s.state ≠ 2#3 → txData s = 0#8)

/-- Every field of `status_word` at its bits (R28), the two codes by their numbers of R27, and every byte of `res_payload_out`
(R30). -/
def Obligations.StatusWordLayout : Prop :=
  ∀ s : State,
    (statusWord s).extractLsb' 0 3 = s.state ∧
    ((statusWord s).getLsbD 3 = true ↔ s.rev = .extended) ∧
    (statusWord s).getLsbD 4 = s.res.valid ∧
    (statusWord s).getLsbD 5 = s.fltCmd ∧
    (statusWord s).getLsbD 6 = s.fltRxOverflow ∧
    (statusWord s).getLsbD 7 = s.res.statusValid ∧
    (∀ row ∈ [(ResultCode.success, 0#3), (ResultCode.warningFrequencyOutOfRange, 1#3), (ResultCode.errorOpenPort, 2#3),
        (ResultCode.errorTimeout, 3#3), (ResultCode.errorChecksumOnSend, 4#3), (ResultCode.errorChecksumOnReceive, 5#3),
        (ResultCode.errorNoSavedFrequency, 6#3), (ResultCode.errorGeneric, 7#3)],
      ((statusWord s).extractLsb' 8 3 = row.2 ↔ s.res.code = row.1) ∧
      ((statusWord s).extractLsb' 11 3 = row.2 ↔ s.res.rawCode = row.1)) ∧
    (statusWord s).getLsbD 14 = s.res.payloadValid ∧
    (statusWord s).getLsbD 15 = false ∧
    (statusWord s).extractLsb' 16 5 = s.res.plen ∧
    (statusWord s).extractLsb' 21 3 = 0#3 ∧
    (statusWord s).extractLsb' 24 8 = s.res.status ∧
    (∀ i, i < 23 → (resPayloadOut s).extractLsb' (8 * i) 8 = s.res.payload.toList.getD i 0#8)

/-- The decode of a 32-bit value undoes its encoding, in the payload of SET_FREQ too, which the host's call of it issues (R66, R139,
R140). -/
def Obligations.KilohertzRoundTrip : Prop :=
  ∀ v : Nat, v < 2 ^ 32 →
    le32 (le32bytes v) 0 = some v ∧
    ∃ p : Payload, pseudoSetFreq v = some (.exchange 0x01#8 4#4 p) ∧
      (∀ hp : HostParams, commandOf hp (.setFreq v) = .ok (.exchange 0x01#8 4#4 p)) ∧
      le32 p.toList 0 = some v ∧ p.toList.drop 4 = List.replicate 9 0#8

/-- The host has a typed value only on Success; for every other code it is absent and the code is reported (R138, R146). -/
def Obligations.TypedValueOnlyOnSuccess : Prop :=
  ∀ (hp : HostParams) (op : Byte) (r : ResultRegs),
    (∀ v, hostDecode hp op r = .ok v → r.code = .success) ∧
    (r.code ≠ .success → hostDecode hp op r = .error (.absent r.code))

/-- The decodes of a one-byte post-multiplier and of a version (R141, R142), and of text: ASCII bytes, zero bytes included,
are their own characters, and a byte 0xF8 or above is no text anywhere (R143). Text is what the payloads of get-id, of
get-serial-number, and of get-internal-serial-number where the registry has a row for it decode to (R143); that opcode 10 is
get-serial-number in every registry, and that the host parameter `internalSerialOpcode` names the added row, above 20, is the
model's choice (log 12). -/
def Obligations.HostTextAndNumbers : Prop :=
  (∀ p : Byte, (p = 0#8 → postMultiplier p = .error .zeroMultiplier) ∧
    (1 ≤ p.toNat → postMultiplier p = .ok (2 ^ (p.toNat - 1)))) ∧
  (∀ bs : List Byte, (∀ b ∈ bs, b.toNat < 0x80) → utf8Text bs = .ok (bs.map (fun b => Char.ofNat b.toNat))) ∧
  (∀ bs : List Byte, (∃ b ∈ bs, 0xF8 ≤ b.toNat) → utf8Text bs = .error .badText) ∧
  (∀ (hp : HostParams) (op : Byte) (bs : List Byte),
    op = 0x05#8 ∨ op = 0x0A#8 ∨ (20 < op.toNat ∧ hp.internalSerialOpcode = some op) →
    decodePayload hp op bs = (utf8Text bs).map .text) ∧
  versionText 1#8 2#8 3#8 = ['1', '.', '2', '.', '3'] ∧
  versionText 255#8 0#8 10#8 = ['2', '5', '5', '.', '0', '.', '1', '0']
end

