-- ==== Sys2Proof/Laws/Frame.lean ====
section
/-! SUPPORT. Lemmas about byte sequences, buffers and frames. -/

namespace Sys2Proof.Machine

@[simp] theorem leBytes_length (k n : Nat) : (leBytes k n).length = k := by
  induction k generalizing n with
  | zero => rfl
  | succ k ih => simp [leBytes, ih]

theorem leNat_lt (l : List Byte) : leNat l < 256 ^ l.length := by
  induction l with
  | nil => simp [leNat]
  | cons b l ih =>
    have := b.isLt
    simp only [leNat, List.length_cons, pow_succ]
    omega

theorem leBytes_leNat (l : List Byte) : leBytes l.length (leNat l) = l := by
  induction l with
  | nil => rfl
  | cons b l ih =>
    have hb := b.isLt
    have h1 : (b.toNat + 256 * leNat l) / 256 = leNat l := by omega
    simp only [leBytes, leNat, List.length_cons, h1, ih, List.cons.injEq, and_true]
    apply BitVec.eq_of_toNat_eq
    simp
    omega

theorem leNat_leBytes (k n : Nat) : leNat (leBytes k n) = n % 256 ^ k := by
  induction k generalizing n with
  | zero => simp [leBytes, leNat, Nat.mod_one]
  | succ k ih =>
    have h : (256 : Nat) ^ (k + 1) = 256 * 256 ^ k := by rw [pow_succ, Nat.mul_comm]
    rw [h, Nat.mod_mul]
    simp [leBytes, leNat, ih]

@[simp] theorem byteSum_append (a b : List Byte) : byteSum (a ++ b) = byteSum a + byteSum b := by
  induction a with
  | nil => simp [byteSum]
  | cons x a ih => simp [byteSum, ih]; omega

theorem fit_of_length {n : Nat} {l : List Byte} (h : l.length = n) : fit n l = l := by
  simp [fit, ← h]

theorem fit_of_le {n : Nat} {l : List Byte} (h : l.length ≤ n) : fit n l = l ++ List.replicate (n - l.length) 0#8 := by
  simp [fit, List.take_append, List.take_of_length_le h]

@[simp] theorem bytesVec_toList (n : Nat) (l : List Byte) : (bytesVec n l).toList = fit n l := by
  simp [bytesVec, Vector.toList]

@[simp] theorem bytesVec_of_toList {n : Nat} (v : Vector Byte n) : bytesVec n v.toList = v := by
  apply Vector.toList_inj.mp
  simp [fit_of_length]

theorem frameBody_length {p : List Byte} {k : Nat} (op : Byte) (hk : k ≤ 13) (hp : k ≤ p.length) :
    (frameBody op p k).length = 17 := by
  simp [frameBody]; omega

theorem encodeFrame_length {p : List Byte} {k : Nat} (op : Byte) (hk : k ≤ 13) (hp : k ≤ p.length) :
    (encodeFrame op p k).length = 18 := by
  simp [encodeFrame, frameBody_length op hk hp]

/-- A whole payload leaves no room for padding: the frame is header, length byte, opcode, payload, LRC-8. -/
theorem encodeFrame_payload (op : Byte) (p : Payload) :
    encodeFrame op p.toList 13 =
      [0xFF#8, 0xFE#8, 0x10#8, op] ++ p.toList ++ [lrc8 ([0x10#8, op] ++ p.toList)] := by
  have h : p.toList.take 13 = p.toList := by simp
  simp [encodeFrame, frameBody, slice, h]

/-- The supplied bytes and the trailing zeros of a short payload are the padded payload (R54). -/
theorem encodeFrame_fit (op : Byte) (p : List Byte) {k : Nat} (hk : k ≤ 13) (hp : k ≤ p.length) :
    encodeFrame op p k = encodeFrame op (fit 13 (p.take k)) 13 := by
  have hl : (p.take k).length = k := by simp [hp]
  have h : fit 13 (p.take k) = p.take k ++ List.replicate (13 - k) 0#8 := by
    rw [fit_of_le (by omega), hl]
  have h2 : (fit 13 (p.take k)).take 13 = fit 13 (p.take k) := by
    rw [List.take_of_length_le (by rw [fit_length])]
  have hb : frameBody op p k = frameBody op (fit 13 (p.take k)) 13 := by
    simp only [frameBody, h2]
    simp [h]
  simp only [encodeFrame, hb]

end Sys2Proof.Machine

namespace Sys2Proof

open Sys2Proof.Machine

theorem decode_hostBytes (w : HostWord) : decode (hostBytes w) = decodeHostNat w.toNat := by
  have h : leNat (hostBytes w) = w.toNat := by
    have := w.isLt
    simp only [hostBytes, leNat_leBytes]
    omega
  have hl : (hostBytes w).length = 15 := by simp [hostBytes]
  have hw : leNat (hostBytes w) < 2 ^ 119 := by rw [h]; exact w.isLt
  rw [decode, if_pos hl, if_pos hw, h]

/-- A host command word never decodes to a frame's row: it is OPEN, EXCHANGE or a reserved kind. -/
theorem decodeHostNat_cases (w : Nat) :
    (∃ rev, decodeHostNat w = .ok (.openSession rev)) ∨
    (∃ op plen p, decodeHostNat w = .ok (.exchange op plen p)) ∨
    decodeHostNat w = .error .reservedKind := by
  unfold decodeHostNat
  split
  · exact .inl ⟨_, rfl⟩
  · exact .inr (.inl ⟨_, _, _, rfl⟩)
  · exact .inr (.inr rfl)

end Sys2Proof
end

