-- ==== Sys2Proof/Laws/HostCalls.lean ====
section
/-! SUPPORT. What the argument checks and the calls of the host can answer. -/

namespace Sys2Proof.Machine

theorem pseudoSetFreq_of_lt {k : Nat} (h : k < 2 ^ 32) :
    pseudoSetFreq k = some (.exchange 0x01#8 4#4 (bytesVec 13 (le32bytes k))) := by
  unfold pseudoSetFreq
  rw [if_pos h]

/-- An index argument passes exactly if it is not negative (R148). -/
theorem checkIndex_eq_none {n : Int} : checkIndex n = none ↔ n < 0 := by
  unfold checkIndex
  split <;> simp <;> omega

/-- An enum argument is rejected exactly if no byte of `ENUM_MAP` has its value (R148). -/
theorem checkEnum_eq_none {α : Type} {map : Byte → Option α} {n : Int} :
    checkEnum map n = none ↔ ∀ b : Byte, n = b.toNat → map b = none := by
  unfold checkEnum
  split
  · rename_i h
    obtain ⟨h1, h2, h3⟩ := h
    refine ⟨(fun h => by cases h), fun h => ?_⟩
    rw [h (BitVec.ofNat 8 n.toNat) (by simp; omega)] at h3
    cases h3
  · rename_i h
    refine ⟨fun _ b hb => ?_, fun _ => rfl⟩
    by_contra hm
    subst hb
    refine h ⟨by omega, by have := b.isLt; omega, ?_⟩
    simpa using Option.isSome_iff_ne_none.mpr hm

/-- A frequency passes exactly if it is an unsigned 32-bit value (R66). -/
theorem checkFrequency_ofNat {k : Nat} (h : k < 2 ^ 32) : checkFrequency k = some k := by
  unfold checkFrequency
  rw [if_pos (by omega)]
  rfl

theorem checkFrequency_eq_none {n : Int} : checkFrequency n = none ↔ n < 0 ∨ 2 ^ 32 ≤ n := by
  unfold checkFrequency
  split <;> simp <;> omega

theorem commandOf_setFreq {hp : HostParams} {n : Int} {k : Nat} {i : Instr} (h1 : checkFrequency n = some k)
    (h2 : pseudoSetFreq k = some i) : commandOf hp (.setFreq n) = .ok i := by
  simp only [commandOf, h1, Option.bind_some, h2]

theorem indexCommand_of_neg {hp : HostParams} {op : Byte} {n : Int} (h : n < 0) :
    indexCommand hp op n = .error .negativeIndex := by
  simp [indexCommand, checkIndex_eq_none.mpr h]

theorem enumCommand_of_notInMap {α : Type} {hp : HostParams} {map : Byte → Option α} {c : ExtCommand} {n : Int}
    (h : ∀ b : Byte, n = b.toNat → map b = none) : enumCommand hp map c n = .error .enumOutOfRange := by
  simp [enumCommand, checkEnum_eq_none.mpr h]

/-- What a call does to the command port (R148): the command, or none. -/
theorem callPins_cases (hp : HostParams) (c : HostCall) (p : Pins) :
    (∃ i, commandOf hp c = .ok i ∧ callPins hp c p = { p with cmdValid := true, cmdWord := hostWordOf i }) ∨
    (∃ e, commandOf hp c = .error e ∧ callPins hp c p = { p with cmdValid := false }) := by
  unfold callPins
  split
  · exact .inl ⟨_, by assumption, rfl⟩
  · exact .inr ⟨_, by assumption, rfl⟩

end Sys2Proof.Machine
end

