-- ==== Sys2Proof/Laws/State.lean ====
section
/-! SUPPORT. One lemma per field per update of the state: no proof unfolds a record update. -/

namespace Sys2Proof.Machine

variable (s t : State)

@[simp] theorem phaseOf_closed : phaseOf stClosed = .closed := rfl
@[simp] theorem phaseOf_idle : phaseOf stIdle = .idle := rfl
@[simp] theorem phaseOf_tx : phaseOf stTx = .tx := rfl
@[simp] theorem phaseOf_settle : phaseOf stSettle = .settle := rfl
@[simp] theorem phaseOf_rx : phaseOf stRx = .rx := rfl
@[simp] theorem phaseOf_state : phaseOf s.state = s.phase := rfl

@[simp] theorem complete_state (code : ResultCode) (r : Response) : (complete code r s).state = s.state := rfl
@[simp] theorem complete_rev (code : ResultCode) (r : Response) : (complete code r s).rev = s.rev := rfl
@[simp] theorem complete_lat (code : ResultCode) (r : Response) : (complete code r s).lat = s.lat := rfl
@[simp] theorem complete_txBuf (code : ResultCode) (r : Response) : (complete code r s).txBuf = s.txBuf := rfl
@[simp] theorem complete_txIdx (code : ResultCode) (r : Response) : (complete code r s).txIdx = s.txIdx := rfl
@[simp] theorem complete_rxBuf (code : ResultCode) (r : Response) : (complete code r s).rxBuf = s.rxBuf := rfl
@[simp] theorem complete_rxCnt (code : ResultCode) (r : Response) : (complete code r s).rxCnt = s.rxCnt := rfl
@[simp] theorem complete_cnt (code : ResultCode) (r : Response) : (complete code r s).cnt = s.cnt := rfl
@[simp] theorem complete_fifo (code : ResultCode) (r : Response) : (complete code r s).fifo = s.fifo := rfl
@[simp] theorem complete_res (code : ResultCode) (r : Response) : (complete code r s).res = resultOf code r := rfl
@[simp] theorem complete_fltCmd (code : ResultCode) (r : Response) : (complete code r s).fltCmd = s.fltCmd := rfl
@[simp] theorem complete_fltRxOverflow (code : ResultCode) (r : Response) : (complete code r s).fltRxOverflow = s.fltRxOverflow := rfl
@[simp] theorem complete_params (code : ResultCode) (r : Response) : (complete code r s).params = s.params := rfl
@[simp] theorem complete_pins (code : ResultCode) (r : Response) : (complete code r s).pins = s.pins := rfl
@[simp] theorem complete_future (code : ResultCode) (r : Response) : (complete code r s).future = s.future := rfl
@[simp] theorem complete_cycle (code : ResultCode) (r : Response) : (complete code r s).cycle = s.cycle := rfl
@[simp] theorem complete_phase (code : ResultCode) (r : Response) : (complete code r s).phase = s.phase := rfl

@[simp] theorem raiseCmdFault_state (reason : CmdFaultReason) : (raiseCmdFault reason s).state = s.state := rfl
@[simp] theorem raiseCmdFault_rev (reason : CmdFaultReason) : (raiseCmdFault reason s).rev = s.rev := rfl
@[simp] theorem raiseCmdFault_lat (reason : CmdFaultReason) : (raiseCmdFault reason s).lat = s.lat := rfl
@[simp] theorem raiseCmdFault_txBuf (reason : CmdFaultReason) : (raiseCmdFault reason s).txBuf = s.txBuf := rfl
@[simp] theorem raiseCmdFault_txIdx (reason : CmdFaultReason) : (raiseCmdFault reason s).txIdx = s.txIdx := rfl
@[simp] theorem raiseCmdFault_rxBuf (reason : CmdFaultReason) : (raiseCmdFault reason s).rxBuf = s.rxBuf := rfl
@[simp] theorem raiseCmdFault_rxCnt (reason : CmdFaultReason) : (raiseCmdFault reason s).rxCnt = s.rxCnt := rfl
@[simp] theorem raiseCmdFault_cnt (reason : CmdFaultReason) : (raiseCmdFault reason s).cnt = s.cnt := rfl
@[simp] theorem raiseCmdFault_fifo (reason : CmdFaultReason) : (raiseCmdFault reason s).fifo = s.fifo := rfl
@[simp] theorem raiseCmdFault_res (reason : CmdFaultReason) : (raiseCmdFault reason s).res = s.res := rfl
@[simp] theorem raiseCmdFault_fltCmd (reason : CmdFaultReason) : (raiseCmdFault reason s).fltCmd = true := rfl
@[simp] theorem raiseCmdFault_fltRxOverflow (reason : CmdFaultReason) : (raiseCmdFault reason s).fltRxOverflow = s.fltRxOverflow := rfl
@[simp] theorem raiseCmdFault_params (reason : CmdFaultReason) : (raiseCmdFault reason s).params = s.params := rfl
@[simp] theorem raiseCmdFault_pins (reason : CmdFaultReason) : (raiseCmdFault reason s).pins = s.pins := rfl
@[simp] theorem raiseCmdFault_future (reason : CmdFaultReason) : (raiseCmdFault reason s).future = s.future := rfl
@[simp] theorem raiseCmdFault_cycle (reason : CmdFaultReason) : (raiseCmdFault reason s).cycle = s.cycle := rfl
@[simp] theorem raiseCmdFault_phase (reason : CmdFaultReason) : (raiseCmdFault reason s).phase = s.phase := rfl

@[simp] theorem acceptExchange_state (d : Descriptor) (op : Byte) (plen : BitVec 4) (p : Payload) : (acceptExchange d op plen p s).state = stTx := rfl
@[simp] theorem acceptExchange_rev (d : Descriptor) (op : Byte) (plen : BitVec 4) (p : Payload) : (acceptExchange d op plen p s).rev = s.rev := rfl
@[simp] theorem acceptExchange_lat (d : Descriptor) (op : Byte) (plen : BitVec 4) (p : Payload) : (acceptExchange d op plen p s).lat = latchOf op d := rfl
@[simp] theorem acceptExchange_txBuf (d : Descriptor) (op : Byte) (plen : BitVec 4) (p : Payload) : (acceptExchange d op plen p s).txBuf = bytesVec 18 (encodeFrame op p.toList plen.toNat) := rfl
@[simp] theorem acceptExchange_txIdx (d : Descriptor) (op : Byte) (plen : BitVec 4) (p : Payload) : (acceptExchange d op plen p s).txIdx = 0#5 := rfl
@[simp] theorem acceptExchange_rxBuf (d : Descriptor) (op : Byte) (plen : BitVec 4) (p : Payload) : (acceptExchange d op plen p s).rxBuf = s.rxBuf := rfl
@[simp] theorem acceptExchange_rxCnt (d : Descriptor) (op : Byte) (plen : BitVec 4) (p : Payload) : (acceptExchange d op plen p s).rxCnt = s.rxCnt := rfl
@[simp] theorem acceptExchange_cnt (d : Descriptor) (op : Byte) (plen : BitVec 4) (p : Payload) : (acceptExchange d op plen p s).cnt = s.cnt := rfl
@[simp] theorem acceptExchange_fifo (d : Descriptor) (op : Byte) (plen : BitVec 4) (p : Payload) : (acceptExchange d op plen p s).fifo = if s.params.rxFlushOnExchange then [] else s.fifo := rfl
@[simp] theorem acceptExchange_res (d : Descriptor) (op : Byte) (plen : BitVec 4) (p : Payload) : (acceptExchange d op plen p s).res = ResultRegs.cleared := rfl
@[simp] theorem acceptExchange_fltCmd (d : Descriptor) (op : Byte) (plen : BitVec 4) (p : Payload) : (acceptExchange d op plen p s).fltCmd = s.fltCmd := rfl
@[simp] theorem acceptExchange_fltRxOverflow (d : Descriptor) (op : Byte) (plen : BitVec 4) (p : Payload) : (acceptExchange d op plen p s).fltRxOverflow = s.fltRxOverflow := rfl
@[simp] theorem acceptExchange_params (d : Descriptor) (op : Byte) (plen : BitVec 4) (p : Payload) : (acceptExchange d op plen p s).params = s.params := rfl
@[simp] theorem acceptExchange_pins (d : Descriptor) (op : Byte) (plen : BitVec 4) (p : Payload) : (acceptExchange d op plen p s).pins = s.pins := rfl
@[simp] theorem acceptExchange_future (d : Descriptor) (op : Byte) (plen : BitVec 4) (p : Payload) : (acceptExchange d op plen p s).future = s.future := rfl
@[simp] theorem acceptExchange_cycle (d : Descriptor) (op : Byte) (plen : BitVec 4) (p : Payload) : (acceptExchange d op plen p s).cycle = s.cycle := rfl
@[simp] theorem acceptExchange_phase (d : Descriptor) (op : Byte) (plen : BitVec 4) (p : Payload) : (acceptExchange d op plen p s).phase = .tx := rfl

@[simp] theorem resetRegs_state : (s.resetRegs).state = State.reset.state := rfl
@[simp] theorem resetRegs_rev : (s.resetRegs).rev = State.reset.rev := rfl
@[simp] theorem resetRegs_lat : (s.resetRegs).lat = State.reset.lat := rfl
@[simp] theorem resetRegs_txBuf : (s.resetRegs).txBuf = State.reset.txBuf := rfl
@[simp] theorem resetRegs_txIdx : (s.resetRegs).txIdx = State.reset.txIdx := rfl
@[simp] theorem resetRegs_rxBuf : (s.resetRegs).rxBuf = State.reset.rxBuf := rfl
@[simp] theorem resetRegs_rxCnt : (s.resetRegs).rxCnt = State.reset.rxCnt := rfl
@[simp] theorem resetRegs_cnt : (s.resetRegs).cnt = State.reset.cnt := rfl
@[simp] theorem resetRegs_fifo : (s.resetRegs).fifo = State.reset.fifo := rfl
@[simp] theorem resetRegs_res : (s.resetRegs).res = State.reset.res := rfl
@[simp] theorem resetRegs_fltCmd : (s.resetRegs).fltCmd = State.reset.fltCmd := rfl
@[simp] theorem resetRegs_fltRxOverflow : (s.resetRegs).fltRxOverflow = State.reset.fltRxOverflow := rfl
@[simp] theorem resetRegs_params : (s.resetRegs).params = s.params := rfl
@[simp] theorem resetRegs_pins : (s.resetRegs).pins = s.pins := rfl
@[simp] theorem resetRegs_future : (s.resetRegs).future = s.future := rfl
@[simp] theorem resetRegs_cycle : (s.resetRegs).cycle = s.cycle := rfl
@[simp] theorem resetRegs_phase : (s.resetRegs).phase = .closed := rfl

@[simp] theorem capture_state : (capture s t).state = t.state := by unfold capture; split_ifs <;> rfl
@[simp] theorem capture_rev : (capture s t).rev = t.rev := by unfold capture; split_ifs <;> rfl
@[simp] theorem capture_lat : (capture s t).lat = t.lat := by unfold capture; split_ifs <;> rfl
@[simp] theorem capture_txBuf : (capture s t).txBuf = t.txBuf := by unfold capture; split_ifs <;> rfl
@[simp] theorem capture_txIdx : (capture s t).txIdx = t.txIdx := by unfold capture; split_ifs <;> rfl
@[simp] theorem capture_rxBuf : (capture s t).rxBuf = t.rxBuf := by unfold capture; split_ifs <;> rfl
@[simp] theorem capture_rxCnt : (capture s t).rxCnt = t.rxCnt := by unfold capture; split_ifs <;> rfl
@[simp] theorem capture_cnt : (capture s t).cnt = t.cnt := by unfold capture; split_ifs <;> rfl
@[simp] theorem capture_res : (capture s t).res = t.res := by unfold capture; split_ifs <;> rfl
@[simp] theorem capture_fltCmd : (capture s t).fltCmd = t.fltCmd := by unfold capture; split_ifs <;> rfl
@[simp] theorem capture_params : (capture s t).params = t.params := by unfold capture; split_ifs <;> rfl
@[simp] theorem capture_pins : (capture s t).pins = t.pins := by unfold capture; split_ifs <;> rfl
@[simp] theorem capture_future : (capture s t).future = t.future := by unfold capture; split_ifs <;> rfl
@[simp] theorem capture_cycle : (capture s t).cycle = t.cycle := by unfold capture; split_ifs <;> rfl
@[simp] theorem capture_phase : (capture s t).phase = t.phase := by unfold capture; split_ifs <;> rfl

@[simp] theorem advance_state : s.advance.state = s.state := by unfold State.advance; split <;> rfl
@[simp] theorem advance_rev : s.advance.rev = s.rev := by unfold State.advance; split <;> rfl
@[simp] theorem advance_lat : s.advance.lat = s.lat := by unfold State.advance; split <;> rfl
@[simp] theorem advance_txBuf : s.advance.txBuf = s.txBuf := by unfold State.advance; split <;> rfl
@[simp] theorem advance_txIdx : s.advance.txIdx = s.txIdx := by unfold State.advance; split <;> rfl
@[simp] theorem advance_rxBuf : s.advance.rxBuf = s.rxBuf := by unfold State.advance; split <;> rfl
@[simp] theorem advance_rxCnt : s.advance.rxCnt = s.rxCnt := by unfold State.advance; split <;> rfl
@[simp] theorem advance_cnt : s.advance.cnt = s.cnt := by unfold State.advance; split <;> rfl
@[simp] theorem advance_fifo : s.advance.fifo = s.fifo := by unfold State.advance; split <;> rfl
@[simp] theorem advance_res : s.advance.res = s.res := by unfold State.advance; split <;> rfl
@[simp] theorem advance_fltCmd : s.advance.fltCmd = s.fltCmd := by unfold State.advance; split <;> rfl
@[simp] theorem advance_fltRxOverflow : s.advance.fltRxOverflow = s.fltRxOverflow := by unfold State.advance; split <;> rfl
@[simp] theorem advance_params : s.advance.params = s.params := by unfold State.advance; split <;> rfl
@[simp] theorem advance_phase : s.advance.phase = s.phase := by unfold State.advance; split <;> rfl
@[simp] theorem advance_cycle : s.advance.cycle = s.cycle + 1 := by unfold State.advance; split <;> rfl
@[simp] theorem advance_future : s.advance.future = s.future.tail := by
  unfold State.advance; split <;> simp_all

@[simp] theorem finishCycle_state : (finishCycle s t).state = t.state := by simp [finishCycle]
@[simp] theorem finishCycle_rev : (finishCycle s t).rev = t.rev := by simp [finishCycle]
@[simp] theorem finishCycle_lat : (finishCycle s t).lat = t.lat := by simp [finishCycle]
@[simp] theorem finishCycle_txBuf : (finishCycle s t).txBuf = t.txBuf := by simp [finishCycle]
@[simp] theorem finishCycle_txIdx : (finishCycle s t).txIdx = t.txIdx := by simp [finishCycle]
@[simp] theorem finishCycle_rxBuf : (finishCycle s t).rxBuf = t.rxBuf := by simp [finishCycle]
@[simp] theorem finishCycle_rxCnt : (finishCycle s t).rxCnt = t.rxCnt := by simp [finishCycle]
@[simp] theorem finishCycle_cnt : (finishCycle s t).cnt = t.cnt := by simp [finishCycle]
@[simp] theorem finishCycle_res : (finishCycle s t).res = t.res := by simp [finishCycle]
@[simp] theorem finishCycle_fltCmd : (finishCycle s t).fltCmd = t.fltCmd := by simp [finishCycle]
@[simp] theorem finishCycle_params : (finishCycle s t).params = t.params := by simp [finishCycle]
@[simp] theorem finishCycle_phase : (finishCycle s t).phase = t.phase := by simp [finishCycle]
@[simp] theorem finishCycle_cycle : (finishCycle s t).cycle = t.cycle + 1 := by simp [finishCycle]
@[simp] theorem finishCycle_future : (finishCycle s t).future = t.future.tail := by simp [finishCycle]
@[simp] theorem finishCycle_fifo : (finishCycle s t).fifo = (capture s t).fifo := by simp [finishCycle]
@[simp] theorem finishCycle_fltRxOverflow : (finishCycle s t).fltRxOverflow = (capture s t).fltRxOverflow := by
  simp [finishCycle]

end Sys2Proof.Machine
end

