-- ==== Sys2Proof/Laws/Ops.lean ====
section
/-! SUPPORT. For each shared operation, one lemma that says everything it can do. -/

namespace Sys2Proof.Machine

theorem phase_closed {s : State} (h : s.phase = .closed) : s.state = stClosed := by
  unfold State.phase phaseOf at h
  split at h <;> simp_all
  exact BitVec.eq_of_toNat_eq (by simpa)

theorem phase_idle {s : State} (h : s.phase = .idle) : s.state = stIdle := by
  unfold State.phase phaseOf at h
  split at h <;> simp_all
  exact BitVec.eq_of_toNat_eq (by simpa)

theorem phase_tx {s : State} (h : s.phase = .tx) : s.state = stTx := by
  unfold State.phase phaseOf at h
  split at h <;> simp_all
  exact BitVec.eq_of_toNat_eq (by simpa)

theorem phase_settle {s : State} (h : s.phase = .settle) : s.state = stSettle := by
  unfold State.phase phaseOf at h
  split at h <;> simp_all
  exact BitVec.eq_of_toNat_eq (by simpa)

theorem phase_rx {s : State} (h : s.phase = .rx) : s.state = stRx := by
  unfold State.phase phaseOf at h
  split at h <;> simp_all
  exact BitVec.eq_of_toNat_eq (by simpa)

theorem busy_iff {s : State} : s.busy = true ↔ s.phase = .tx ∨ s.phase = .settle ∨ s.phase = .rx := by
  simp [State.busy, or_assoc]

theorem openInClosed_cases (rev : Revision) (s : State) :
    (s.pins.linkOk = true ∧
      openInClosed rev s = { s with rev := rev, state := stIdle, res := resultOf .success (Response.bare .success) }) ∨
    (s.pins.linkOk = false ∧
      openInClosed rev s = { s with res := resultOf .errorOpenPort (Response.bare .errorOpenPort) }) := by
  cases h : s.pins.linkOk
  · exact .inr ⟨rfl, by simp [openInClosed, h, complete]⟩
  · exact .inl ⟨rfl, by simp [openInClosed, h, complete]⟩

theorem exchangeInIdle_cases (op : Byte) (plen : BitVec 4) (p : Payload) (s : State) :
    (registry s.params s.rev op = none ∧ exchangeInIdle op plen p s = raiseCmdFault .unknownCommand s) ∨
    (13 < plen.toNat ∧ exchangeInIdle op plen p s = raiseCmdFault .payloadTooLong s) ∨
    (∃ d, registry s.params s.rev op = some d ∧ plen.toNat ≤ 13 ∧
      exchangeInIdle op plen p s = acceptExchange d op plen p s) := by
  unfold exchangeInIdle
  cases h : registry s.params s.rev op with
  | none => exact .inl ⟨rfl, rfl⟩
  | some d =>
    by_cases hp : 13 < plen.toNat
    · exact .inr (.inl ⟨hp, by simp [hp]⟩)
    · exact .inr (.inr ⟨d, rfl, by omega, by simp [hp]⟩)

theorem txStep_cases (s : State) :
    (s.pins.txReady = false ∧ txStep s = s) ∨
    (s.pins.txReady = true ∧ s.txIdx = 17#5 ∧ txStep s = { s with state := stSettle, cnt := 0, txIdx := 0#5 }) ∨
    (s.pins.txReady = true ∧ s.txIdx ≠ 17#5 ∧ txStep s = { s with txIdx := s.txIdx + 1#5 }) := by
  unfold txStep
  split_ifs with h1 h2
  · exact .inr (.inl ⟨h1, h2, rfl⟩)
  · exact .inr (.inr ⟨h1, h2, rfl⟩)
  · exact .inl ⟨by simpa using h1, rfl⟩

theorem settleStep_cases (s : State) :
    (s.cnt = s.params.settleCycles - 1 ∧ settleStep s = { s with state := stRx, cnt := 0, rxCnt := 0#5 }) ∨
    (s.cnt ≠ s.params.settleCycles - 1 ∧ settleStep s = { s with cnt := s.cnt + 1 }) := by
  unfold settleStep
  split_ifs with h
  · exact .inl ⟨h, rfl⟩
  · exact .inr ⟨h, rfl⟩

/-- What one RX cycle can do once the pop, if any, is made: complete the frame, end the window, or go on. -/
theorem rxAdvance_cases (popped : Bool) (got : BitVec 5) (s : State) :
    (popped = true ∧ got = s.lat.n ∧ rxAdvance popped got s = frameComplete s) ∨
    (¬(popped = true ∧ got = s.lat.n) ∧ s.cnt = s.params.timeoutCycles - 1 ∧
      rxAdvance popped got s = readTimeout got s) ∨
    (¬(popped = true ∧ got = s.lat.n) ∧ s.cnt ≠ s.params.timeoutCycles - 1 ∧
      rxAdvance popped got s = { s with cnt := s.cnt + 1, rxCnt := got }) := by
  unfold rxAdvance
  split_ifs with h1 h2
  · exact .inl ⟨h1.1, h1.2, rfl⟩
  · exact .inr (.inl ⟨h1, h2, rfl⟩)
  · exact .inr (.inr ⟨h1, h2, rfl⟩)

theorem rxStep_nil {s : State} (h : s.fifo = []) : rxStep s = rxAdvance false s.rxCnt s := by
  simp [rxStep, h]

theorem rxStep_cons {s : State} {b : Byte} {rest : List Byte} (h : s.fifo = b :: rest) :
    rxStep s =
      rxAdvance true (s.rxCnt + 1#5) { s with fifo := rest, rxBuf := s.rxBuf.setIfInBounds s.rxCnt.toNat b } := by
  simp [rxStep, h]

theorem frameComplete_eq (s : State) :
    frameComplete s =
      { s with
        state := stIdle
        res := resultOf
          (remapCode (decodeResponse (s.rxBuf.toList.take s.lat.n.toNat) s.lat.n.toNat s.lat.l.toNat).code s.lat.remap)
          (decodeResponse (s.rxBuf.toList.take s.lat.n.toNat) s.lat.n.toNat s.lat.l.toNat) } := rfl

theorem readTimeout_eq (got : BitVec 5) (s : State) :
    readTimeout got s =
      { s with
        state := stIdle
        res := resultOf .errorTimeout
          (decodeResponse (s.rxBuf.toList.take got.toNat) s.lat.n.toNat s.lat.l.toNat) } := rfl

theorem exchangeCycle_tx {s : State} (h : s.phase = .tx) : exchangeCycle s = .next (txStep s) := by
  simp [exchangeCycle, h]

theorem exchangeCycle_settle {s : State} (h : s.phase = .settle) : exchangeCycle s = .next (settleStep s) := by
  simp [exchangeCycle, h]

theorem exchangeCycle_rx {s : State} (h : s.phase = .rx) : exchangeCycle s = .next (rxStep s) := by
  simp [exchangeCycle, h]

theorem commonExchange_busy {op : Byte} {plen : BitVec 4} {p : Payload} {s : State} (h : s.busy = true) :
    commonExchange op plen p s = exchangeCycle s := by
  rcases busy_iff.mp h with h | h | h <;> simp [commonExchange, h]

/-- While an exchange is in flight, every instruction's cycle is that exchange's (R73, R120). -/
theorem exec_busy {i : Instr} {s : State} (h : s.busy = true) : exec i s = exchangeCycle s := by
  cases i with
  | openSession rev => rcases busy_iff.mp h with h | h | h <;> simp [exec, execOpen, h]
  | exchange op plen p => exact commonExchange_busy h
  | respEcho p => exact commonExchange_busy h
  | setFreq p => exact commonExchange_busy h
  | saveNthFreq p => exact commonExchange_busy h
  | freqCount p => exact commonExchange_busy h
  | getNthFreq p => exact commonExchange_busy h
  | getId p => exact commonExchange_busy h
  | getHwVer p => exact commonExchange_busy h
  | getFwVer p => exact commonExchange_busy h
  | getPostMult p => exact commonExchange_busy h
  | refClock p => exact commonExchange_busy h
  | getSerial p => exact commonExchange_busy h
  | getDip p => exact commonExchange_busy h
  | ext0C p => exact commonExchange_busy h
  | ext0D p => exact commonExchange_busy h
  | ext0E p => exact commonExchange_busy h
  | ext0F p => exact commonExchange_busy h
  | ext10 p => exact commonExchange_busy h
  | ext11 p => exact commonExchange_busy h
  | ext12 p => exact commonExchange_busy h
  | ext13 p => exact commonExchange_busy h
  | ext14 p => exact commonExchange_busy h

/-- The line side's part of a cycle: nothing, a byte appended, or a byte dropped with the sticky flag set (R44, R45, R163). -/
theorem capture_cases (s t : State) :
    (¬(s.pins.rxValid = true ∧ s.phase ≠ .closed) ∧ capture s t = t) ∨
    ((s.pins.rxValid = true ∧ s.phase ≠ .closed) ∧ t.params.rxFifoDepth ≤ t.fifo.length ∧
      capture s t = { t with fltRxOverflow := true }) ∨
    ((s.pins.rxValid = true ∧ s.phase ≠ .closed) ∧ t.fifo.length < t.params.rxFifoDepth ∧
      capture s t = { t with fifo := t.fifo ++ [s.pins.rxData] }) := by
  unfold capture
  split_ifs with h1 h2
  · exact .inr (.inl ⟨h1, h2, rfl⟩)
  · exact .inr (.inr ⟨h1, by omega, rfl⟩)
  · exact .inl ⟨h1, rfl⟩

/-- Everything that the rest of an edge writes, field by field: the FIFO, `flt_rx_overflow` and the inputs (R44, R45, R163). -/
theorem finishCycle_eq (s u : State) :
    finishCycle s u = { u with
      fifo :=
        if s.pins.rxValid = true ∧ s.phase ≠ .closed ∧ u.fifo.length < u.params.rxFifoDepth then
          u.fifo ++ [s.pins.rxData]
        else u.fifo
      fltRxOverflow :=
        u.fltRxOverflow ||
          decide (s.pins.rxValid = true ∧ s.phase ≠ .closed ∧ u.params.rxFifoDepth ≤ u.fifo.length)
      pins := State.pinsAt 1 u
      future := u.future.tail
      cycle := u.cycle + 1 } := by
  have ha : ∀ v : State, v.advance =
      { v with pins := State.pinsAt 1 v, future := v.future.tail, cycle := v.cycle + 1 } := by
    rintro ⟨⟩
    simp only [State.pinsAt, State.advance]
    split <;> simp_all
  have hp : State.pinsAt 1 (capture s u) = State.pinsAt 1 u := by
    rcases capture_cases s u with ⟨_, h⟩ | ⟨_, _, h⟩ | ⟨_, _, h⟩ <;> rw [h] <;>
      simp only [State.pinsAt, State.advance] <;> cases u.future <;> rfl
  unfold finishCycle
  rw [ha, hp]
  rcases capture_cases s u with ⟨h1, h⟩ | ⟨h1, h2, h⟩ | ⟨h1, h2, h⟩ <;> rw [h]
  · simp [← and_assoc, h1]
  · simp [h1.1, h1.2, h2, Nat.not_lt.mpr h2]
  · simp [h1.1, h1.2, h2, Nat.not_le.mpr h2]

theorem pinsAt_zero (s : State) : State.pinsAt 0 s = s.pins := rfl

theorem pinsAt_succ (k : Nat) (s : State) : State.pinsAt (k + 1) s = State.pinsAt k s.advance := rfl

@[simp] theorem advance_pins (s : State) : s.advance.pins = State.pinsAt 1 s := rfl

/-- The coming inputs depend on the inputs of a state alone. -/
theorem pinsAt_congr (k : Nat) {s t : State} (hp : s.pins = t.pins) (hf : s.future = t.future)
    (hc : s.cycle = t.cycle) : State.pinsAt k s = State.pinsAt k t := by
  induction k generalizing s t with
  | zero => exact hp
  | succ k ih =>
    refine ih ?_ (by simp [hf]) (by simp [hc])
    simp only [State.advance, hf, hc]
    split <;> rfl

end Sys2Proof.Machine
end

