-- ==== Sys2Proof/Laws/PerInstr.lean ====
section
/-! SUPPORT. Lemmas about each instruction as syntax: its encoding meets its row of spec/opcode_table.json. -/

namespace Sys2Proof.Laws.TableMatch

open Sys2Proof Sys2Proof.Machine

/-- What a row of spec/opcode_table.json fixes: the masked bits of a host command word, or the first four bytes of a frame read
as a big-endian 32-bit word. -/
inductive Row
  | word (mask pattern : Nat)
  | frame (pattern : Nat)
deriving DecidableEq, Repr

/-- The match and mask of each row, copied from the table. -/
def row : Instr → Row
  | .openSession _ => .word 3 0
  | .exchange _ _ _ => .word 3 1
  | .respEcho _ => .frame 0xFFFE1000
  | .setFreq _ => .frame 0xFFFE1001
  | .saveNthFreq _ => .frame 0xFFFE1002
  | .freqCount _ => .frame 0xFFFE1003
  | .getNthFreq _ => .frame 0xFFFE1004
  | .getId _ => .frame 0xFFFE1005
  | .getHwVer _ => .frame 0xFFFE1006
  | .getFwVer _ => .frame 0xFFFE1007
  | .getPostMult _ => .frame 0xFFFE1008
  | .refClock _ => .frame 0xFFFE1009
  | .getSerial _ => .frame 0xFFFE100A
  | .getDip _ => .frame 0xFFFE100B
  | .ext0C _ => .frame 0xFFFE100C
  | .ext0D _ => .frame 0xFFFE100D
  | .ext0E _ => .frame 0xFFFE100E
  | .ext0F _ => .frame 0xFFFE100F
  | .ext10 _ => .frame 0xFFFE1010
  | .ext11 _ => .frame 0xFFFE1011
  | .ext12 _ => .frame 0xFFFE1012
  | .ext13 _ => .frame 0xFFFE1013
  | .ext14 _ => .frame 0xFFFE1014

/-- The encoding of `i` has the length of its format and meets its row. -/
def Statement (i : Instr) : Prop :=
  match row i with
  | .word mask pattern => (encode i).length = 15 ∧ leNat (encode i) &&& mask = pattern
  | .frame pattern => (encode i).length = 18 ∧ (encode i).take 4 = beBytes 4 pattern

theorem word_statement {kind rev op plen payload : Nat} (hk : kind < 4)
    (h : encodeHostNat kind rev op plen payload < 256 ^ 15) :
    (leBytes 15 (encodeHostNat kind rev op plen payload)).length = 15 ∧
      leNat (leBytes 15 (encodeHostNat kind rev op plen payload)) &&& 3 = kind := by
  refine ⟨by simp, ?_⟩
  rw [leNat_leBytes, Nat.mod_eq_of_lt h, Nat.and_two_pow_sub_one_eq_mod _ 2]
  unfold encodeHostNat
  omega

theorem frame_statement (op : Byte) (p : Payload) :
    (encodeFrame op p.toList 13).length = 18 ∧ (encodeFrame op p.toList 13).take 4 = [0xFF#8, 0xFE#8, 0x10#8, op] :=
  ⟨encodeFrame_length op (by simp) (by simp), by rw [encodeFrame_payload]; simp⟩

theorem openSession (rev : Revision) : Statement (.openSession rev) := by
  cases rev <;> exact word_statement (by decide) (by decide)

theorem exchange (op : Byte) (plen : BitVec 4) (p : Payload) : Statement (.exchange op plen p) := by
  have h1 := op.isLt
  have h2 := plen.isLt
  have h3 := leNat_lt p.toList
  simp only [Vector.length_toList] at h3
  exact word_statement (by decide) (by unfold encodeHostNat; omega)

theorem respEcho (p : Payload) : Statement (.respEcho p) := frame_statement _ p

theorem setFreq (p : Payload) : Statement (.setFreq p) := frame_statement _ p

theorem saveNthFreq (p : Payload) : Statement (.saveNthFreq p) := frame_statement _ p

theorem freqCount (p : Payload) : Statement (.freqCount p) := frame_statement _ p

theorem getNthFreq (p : Payload) : Statement (.getNthFreq p) := frame_statement _ p

theorem getId (p : Payload) : Statement (.getId p) := frame_statement _ p

theorem getHwVer (p : Payload) : Statement (.getHwVer p) := frame_statement _ p

theorem getFwVer (p : Payload) : Statement (.getFwVer p) := frame_statement _ p

theorem getPostMult (p : Payload) : Statement (.getPostMult p) := frame_statement _ p

theorem refClock (p : Payload) : Statement (.refClock p) := frame_statement _ p

theorem getSerial (p : Payload) : Statement (.getSerial p) := frame_statement _ p

theorem getDip (p : Payload) : Statement (.getDip p) := frame_statement _ p

theorem ext0C (p : Payload) : Statement (.ext0C p) := frame_statement _ p

theorem ext0D (p : Payload) : Statement (.ext0D p) := frame_statement _ p

theorem ext0E (p : Payload) : Statement (.ext0E p) := frame_statement _ p

theorem ext0F (p : Payload) : Statement (.ext0F p) := frame_statement _ p

theorem ext10 (p : Payload) : Statement (.ext10 p) := frame_statement _ p

theorem ext11 (p : Payload) : Statement (.ext11 p) := frame_statement _ p

theorem ext12 (p : Payload) : Statement (.ext12 p) := frame_statement _ p

theorem ext13 (p : Payload) : Statement (.ext13 p) := frame_statement _ p

theorem ext14 (p : Payload) : Statement (.ext14 p) := frame_statement _ p

end Sys2Proof.Laws.TableMatch
end

