-- ==== Sys2Proof/Laws/Registry.lean ====
section
/-! SUPPORT. What a registry lookup can answer, what DECODE can answer, and how a buffer fills. -/

namespace Sys2Proof.Machine

theorem registryLookup_mem {rows : List RegistryRow} {rev : Revision} {op : Byte} {d : Descriptor}
    (h : registryLookup rows rev op = some d) : ∃ r ∈ rows, r.rev = rev ∧ r.desc = d ∧ d.opcode = op := by
  unfold registryLookup at h
  split at h
  · rename_i r hr
    injection h with h
    subst h
    have h2 := List.find?_some hr
    simp only [Bool.and_eq_true, decide_eq_true_eq] at h2
    exact ⟨r, List.mem_of_find?_eq_some hr, h2.1, rfl, h2.2⟩
  · cases h

/-- Everything a descriptor of a built-in registry satisfies (R62, R67, R69, R70). -/
theorem registry_some {ps : Params} {rev : Revision} {op : Byte} {d : Descriptor} (h : registry ps rev op = some d) :
    d.len.toNat + 5 ≤ (responseLength d.variant).toNat ∧ (d.remap = true → op = 4#8) ∧ op.toNat < 0xFE ∧
      d.opcode = op := by
  obtain ⟨r, hr, h1, rfl, h3⟩ := registryLookup_mem h
  have hk := ps.registry_ok
  simp only [registryOk, Bool.and_eq_true, List.all_eq_true] at hk
  have hk := hk.1.1.1 r hr
  simp only [registryRowOk, Bool.and_eq_true, Bool.or_eq_true, decide_eq_true_eq] at hk
  subst h3
  refine ⟨hk.1.1.1, fun h => ?_, hk.1.2, rfl⟩
  rcases hk.1.1.2 with h' | h'
  · simp [h] at h'
  · exact h'

/-- The rows of the opcodes 0..11 in a registry that the block can be built with (R72, R74). -/
theorem registry_tableRows (ps : Params) (rev : Revision) :
    (∀ d ∈ fixedRows, registry ps rev d.opcode = some d) ∧
    (∃ d, registry ps rev 0x00#8 = some d ∧ d.len = 0#5) ∧ ∃ d, registry ps rev 0x0A#8 = some d := by
  have hk : tableRowsOk ps.registry rev = true := by
    have h := ps.registry_ok
    simp only [registryOk, Bool.and_eq_true] at h
    cases rev
    · exact h.1.1.2
    · exact h.1.2
  simp only [tableRowsOk, Bool.and_eq_true, List.all_eq_true, decide_eq_true_eq] at hk
  refine ⟨hk.1.1, ?_, Option.isSome_iff_exists.mp hk.2⟩
  have h0 := hk.1.2
  split at h0
  · exact ⟨_, by assumption, by simpa using h0⟩
  · cases h0

/-- The rows of the opcodes 0..11 in a default registry (R74). -/
theorem registry_default {ps : Params} {extLen : Vector (Fin 2) 9} (h : ps.registry = defaultRegistry extLen)
    (rev : Revision) {d : Descriptor} (hd : d ∈ legacyRows) : registry ps rev d.opcode = some d := by
  unfold registry
  rw [h]
  simp only [legacyRows, echoRow, serialRow, fixedRows, List.mem_cons, List.not_mem_nil, or_false] at hd
  rcases hd with rfl | rfl | rfl | rfl | rfl | rfl | rfl | rfl | rfl | rfl | rfl | rfl <;> cases rev <;> rfl

/-- The opcodes 12..20: a Standard row without remap in the extended revision, none in the legacy one (R72, R74). -/
theorem registry_ext {ps : Params} {op : Byte} (h : op ∈ extOpcodes) :
    (∃ d, registry ps .extended op = some d ∧ d.variant = .standard ∧ d.remap = false ∧ d.len.toNat ≤ 5) ∧
      registry ps .legacy op = none := by
  have hk := ps.registry_ok
  simp only [registryOk, Bool.and_eq_true, List.all_eq_true] at hk
  constructor
  · have hx := hk.2 op h
    unfold extRowOk at hx
    cases hr : registry ps .extended op with
    | none =>
      unfold registry at hr
      rw [hr] at hx
      cases hx
    | some d =>
      have h2 := (registry_some hr).1
      unfold registry at hr
      rw [hr] at hx
      simp only [Bool.and_eq_true, decide_eq_true_eq, Bool.not_eq_true'] at hx
      rw [hx.1] at h2
      simp only [responseLength, BitVec.toNat_ofNat] at h2
      exact ⟨d, rfl, hx.1, hx.2, by omega⟩
  · cases hr : registry ps .legacy op with
    | none => rfl
    | some d =>
      obtain ⟨r, hr', h1, h2, h3⟩ := registryLookup_mem hr
      have hk := hk.1.1.1 r hr'
      simp only [registryRowOk, h1, h2, h3, Bool.and_eq_true, decide_true, Bool.true_and, Bool.not_eq_true',
        List.contains_eq_mem, decide_eq_false_iff_not] at hk
      exact absurd h hk.2

theorem responseLength_toNat (v : Variant) : (responseLength v).toNat = 10 ∨ (responseLength v).toNat = 28 := by
  cases v <;> simp [responseLength]

/-- Everything DECODE can answer: its five steps in their order (R106). -/
theorem decodeResponse_cases (raw : List Byte) (n l : Nat) :
    (raw.length ≠ n ∧ decodeResponse raw n l = Response.bare .errorTimeout) ∨
    (raw.length = n ∧ lrc8 (slice raw 2 (n - 2)) ≠ raw.getD (n - 1) 0#8 ∧
      decodeResponse raw n l = Response.bare .errorChecksumOnReceive) ∨
    (raw.length = n ∧ lrc8 (slice raw 2 (n - 2)) = raw.getD (n - 1) 0#8 ∧
      decodeResponse raw n l = decodeStatus (raw.getD 3 0#8) ((raw.drop 4).take l)) := by
  unfold decodeResponse
  split_ifs with h1 h2
  · exact .inl ⟨h1, rfl⟩
  · exact .inr (.inl ⟨by simpa using h1, h2, rfl⟩)
  · exact .inr (.inr ⟨by simpa using h1, by simpa using h2, rfl⟩)

/-- The bytes read so far, after one more byte (R127). -/
theorem setIfInBounds_take {v : Vector Byte 28} {j : Nat} {b : Byte} (h : j < 28) :
    (v.setIfInBounds j b).toList.take (j + 1) = v.toList.take j ++ [b] := by
  rw [Vector.toList_setIfInBounds, List.take_add_one]
  congr 1
  · rw [List.take_set_of_le (by omega)]
  · rw [List.getElem?_set_self (by simpa using h)]
    rfl

end Sys2Proof.Machine
end

