-- ==== Sys2Proof/Laws/Step.lean ====
section
/-! SUPPORT. What a step can do: one case lemma for the state action and one for the whole edge. -/

namespace Sys2Proof.Machine

theorem step_reset {s : State} (h : s.pins.rst = true) : step s = .next s.resetRegs.advance := by
  simp [step, h]

theorem step_run {s : State} (h : s.pins.rst = false) : step s = finishOutcome s (cycleAction s) := by
  simp [step, h]

theorem cycleAction_busy {s : State} (h : s.busy = true) : cycleAction s = exchangeCycle s := by
  have hf : fetchBytes s = some s.txBuf.toList := by
    rcases busy_iff.mp h with h | h | h <;> simp [fetchBytes, h]
  simp only [cycleAction, hf]
  split
  · exact exec_busy h
  · rcases busy_iff.mp h with h | h | h <;> simp [undecoded, h]

theorem cycleAction_illegal {s : State} (h : s.phase = .illegal) : cycleAction s = .fault .illegalState := by
  simp [cycleAction, fetchBytes, exchangeCycle, h]

/-- Everything a cycle's action can do in CLOSED. -/
theorem cycleAction_closed {s : State} (h : s.phase = .closed) :
    (s.pins.cmdValid = false ∧ cycleAction s = .next s) ∨
    (s.pins.cmdValid = true ∧ decodeHostNat s.pins.cmdWord.toNat = .error .reservedKind ∧
      cycleAction s = .next (raiseCmdFault .reservedKind s)) ∨
    (∃ rev, s.pins.cmdValid = true ∧ decodeHostNat s.pins.cmdWord.toNat = .ok (.openSession rev) ∧
      cycleAction s = .next (openInClosed rev s)) ∨
    (∃ op plen p, s.pins.cmdValid = true ∧ decodeHostNat s.pins.cmdWord.toNat = .ok (.exchange op plen p) ∧
      cycleAction s = .next (exchangeInClosed s)) := by
  cases hv : s.pins.cmdValid with
  | false => exact .inl ⟨rfl, by simp [cycleAction, fetchBytes, exchangeCycle, h, hv]⟩
  | true =>
    rcases decodeHostNat_cases s.pins.cmdWord.toNat with ⟨rev, hd⟩ | ⟨op, plen, p, hd⟩ | hd
    · exact .inr (.inr (.inl ⟨rev, rfl, hd, by
        simp [cycleAction, fetchBytes, h, hv, decode_hostBytes, hd, exec, execOpen]⟩))
    · exact .inr (.inr (.inr ⟨op, plen, p, rfl, hd, by
        simp [cycleAction, fetchBytes, h, hv, decode_hostBytes, hd, exec, execExchange, commonExchange]⟩))
    · exact .inr (.inl ⟨rfl, hd, by simp [cycleAction, fetchBytes, h, hv, decode_hostBytes, hd, undecoded]⟩)

/-- Everything a cycle's action can do in IDLE. -/
theorem cycleAction_idle {s : State} (h : s.phase = .idle) :
    (s.pins.cmdValid = false ∧ cycleAction s = .next s) ∨
    (s.pins.cmdValid = true ∧ decodeHostNat s.pins.cmdWord.toNat = .error .reservedKind ∧
      cycleAction s = .next (raiseCmdFault .reservedKind s)) ∨
    (∃ rev, s.pins.cmdValid = true ∧ decodeHostNat s.pins.cmdWord.toNat = .ok (.openSession rev) ∧
      cycleAction s = .next (raiseCmdFault .alreadyOpen s)) ∨
    (∃ op plen p, s.pins.cmdValid = true ∧ decodeHostNat s.pins.cmdWord.toNat = .ok (.exchange op plen p) ∧
      cycleAction s = .next (exchangeInIdle op plen p s)) := by
  cases hv : s.pins.cmdValid with
  | false => exact .inl ⟨rfl, by simp [cycleAction, fetchBytes, exchangeCycle, h, hv]⟩
  | true =>
    rcases decodeHostNat_cases s.pins.cmdWord.toNat with ⟨rev, hd⟩ | ⟨op, plen, p, hd⟩ | hd
    · exact .inr (.inr (.inl ⟨rev, rfl, hd, by
        simp [cycleAction, fetchBytes, h, hv, decode_hostBytes, hd, exec, execOpen]⟩))
    · exact .inr (.inr (.inr ⟨op, plen, p, rfl, hd, by
        simp [cycleAction, fetchBytes, h, hv, decode_hostBytes, hd, exec, execExchange, commonExchange]⟩))
    · exact .inr (.inl ⟨rfl, hd, by simp [cycleAction, fetchBytes, h, hv, decode_hostBytes, hd, undecoded]⟩)

/-- Everything a cycle's action can do, in one list: the state actions of R119. -/
theorem cycleAction_cases {s u : State} (h : cycleAction s = .next u) :
    (s.phase = .closed ∧
      (u = s ∨ u = raiseCmdFault .reservedKind s ∨ (∃ rev, u = openInClosed rev s) ∨ u = exchangeInClosed s)) ∨
    (s.phase = .idle ∧
      (u = s ∨ (∃ reason, u = raiseCmdFault reason s) ∨
        (∃ d op plen p, registry s.params s.rev op = some d ∧ plen.toNat ≤ 13 ∧
          u = acceptExchange d op plen p s))) ∨
    (s.phase = .tx ∧ u = txStep s) ∨ (s.phase = .settle ∧ u = settleStep s) ∨ (s.phase = .rx ∧ u = rxStep s) := by
  cases hp : s.phase with
  | closed =>
    refine .inl ⟨rfl, ?_⟩
    rcases cycleAction_closed hp with ⟨_, he⟩ | ⟨_, _, he⟩ | ⟨rev, _, _, he⟩ | ⟨op, plen, p, _, _, he⟩ <;>
      rw [he] at h <;> injection h with h <;> subst h
    · exact .inl rfl
    · exact .inr (.inl rfl)
    · exact .inr (.inr (.inl ⟨rev, rfl⟩))
    · exact .inr (.inr (.inr rfl))
  | idle =>
    refine .inr (.inl ⟨rfl, ?_⟩)
    rcases cycleAction_idle hp with ⟨_, he⟩ | ⟨_, _, he⟩ | ⟨rev, _, _, he⟩ | ⟨op, plen, p, _, _, he⟩ <;>
      rw [he] at h <;> injection h with h <;> subst h
    · exact .inl rfl
    · exact .inr (.inl ⟨_, rfl⟩)
    · exact .inr (.inl ⟨_, rfl⟩)
    · rcases exchangeInIdle_cases op plen p s with ⟨_, he⟩ | ⟨_, he⟩ | ⟨d, hd, hl, he⟩
      · exact .inr (.inl ⟨_, he⟩)
      · exact .inr (.inl ⟨_, he⟩)
      · exact .inr (.inr ⟨d, op, plen, p, hd, hl, he⟩)
  | tx =>
    rw [cycleAction_busy (busy_iff.mpr (.inl hp)), exchangeCycle_tx hp] at h
    injection h with h
    exact .inr (.inr (.inl ⟨rfl, h.symm⟩))
  | settle =>
    rw [cycleAction_busy (busy_iff.mpr (.inr (.inl hp))), exchangeCycle_settle hp] at h
    injection h with h
    exact .inr (.inr (.inr (.inl ⟨rfl, h.symm⟩)))
  | rx =>
    rw [cycleAction_busy (busy_iff.mpr (.inr (.inr hp))), exchangeCycle_rx hp] at h
    injection h with h
    exact .inr (.inr (.inr (.inr ⟨rfl, h.symm⟩)))
  | illegal => rw [cycleAction_illegal hp] at h; cases h

/-- A step that answers a next state is a reset, or a state action finished by the line side and the next inputs. -/
theorem step_cases {s t : State} (h : step s = .next t) :
    (s.pins.rst = true ∧ t = s.resetRegs.advance) ∨
    (s.pins.rst = false ∧ ∃ u, cycleAction s = .next u ∧ t = finishCycle s u) := by
  cases hr : s.pins.rst with
  | true => rw [step_reset hr] at h; injection h with h; exact .inl ⟨rfl, h.symm⟩
  | false =>
    rw [step_run hr] at h
    cases ha : cycleAction s with
    | next u => rw [ha] at h; injection h with h; exact .inr ⟨rfl, u, rfl, h.symm⟩
    | fault r => rw [ha] at h; cases h
    | refused r => rw [ha] at h; cases h

end Sys2Proof.Machine
end

