-- ==== Sys2Proof/Laws/Runs.lean ====
section
/-! SUPPORT. Runs of several edges: how they split, the inputs along them, and one edge of each phase of an exchange. -/

namespace Sys2Proof.Machine

theorem runFor_zero (s : State) : runFor 0 s = .next s := rfl

theorem runFor_succ {s t : State} (k : Nat) (h : step s = .next t) : runFor (k + 1) s = runFor k t := by
  have h' : Host.Core.step Sys2Proof.core s = .next t := h
  unfold runFor
  simp only [Host.Core.run]
  split
  · rename_i u hu
    have e := h'.symm.trans hu
    injection e with e
    subst e
    rfl
  · rename_i hu
    cases h'.symm.trans hu
  · rename_i hu
    cases h'.symm.trans hu

theorem runFor_one {s t : State} (h : step s = .next t) : runFor 1 s = .next t := runFor_succ 0 h

theorem runFor_add {m : Nat} (n : Nat) : ∀ {s t : State}, runFor m s = .next t → runFor (m + n) s = runFor n t := by
  induction m with
  | zero =>
    intro s t h
    rw [runFor_zero] at h
    injection h with h
    subst h
    rw [Nat.zero_add]
  | succ m ih =>
    intro s t h
    cases hs : step s with
    | next u =>
      rw [runFor_succ m hs] at h
      rw [Nat.succ_add, runFor_succ _ hs]
      exact ih h
    | fault r =>
      exfalso
      unfold runFor at h
      simp only [Host.Core.run] at h
      rw [show Sys2Proof.core.step s = _ from hs] at h
      cases h
    | refused r =>
      exfalso
      unfold runFor at h
      simp only [Host.Core.run] at h
      rw [show Sys2Proof.core.step s = _ from hs] at h
      cases h

/-- The inputs after an edge are those before it, one edge on. -/
theorem pinsAt_finishCycle {s u : State} (hp : u.pins = s.pins) (hf : u.future = s.future) (hc : u.cycle = s.cycle)
    (k : Nat) : State.pinsAt k (finishCycle s u) = State.pinsAt (k + 1) s := by
  rw [pinsAt_succ]
  have h := pinsAt_congr (k + 1) (s := capture s u) (t := s) (by simpa using hp) (by simpa using hf) (by simpa using hc)
  simpa [pinsAt_succ, finishCycle] using h

theorem arrivalsIn_eq (k : Nat) (s : State) :
    arrivalsIn k s = (List.range k).flatMap (fun j =>
      if (State.pinsAt j s).rxValid then [(State.pinsAt j s).rxData] else []) := by
  induction k generalizing s with
  | zero => rfl
  | succ k ih =>
    rw [arrivalsIn, ih, List.range_succ_eq_map, List.flatMap_cons, List.flatMap_map]
    rfl

theorem arrivalsIn_add (m n : Nat) {s t : State} (h : ∀ k, State.pinsAt k t = State.pinsAt (m + k) s) :
    arrivalsIn (m + n) s = arrivalsIn m s ++ arrivalsIn n t := by
  simp only [arrivalsIn_eq, List.range_add, List.flatMap_append, List.flatMap_map, h]

theorem arrivalsIn_length_le (n : Nat) (s : State) : (arrivalsIn n s).length ≤ n := by
  induction n generalizing s with
  | zero => simp [arrivalsIn]
  | succ n ih =>
    have := ih s.advance
    simp only [arrivalsIn, List.length_append]
    split <;> simp <;> omega

theorem step_tx {s : State} (h : s.phase = .tx) (hr : s.pins.rst = false) :
    step s = .next (finishCycle s (txStep s)) := by
  rw [step_run hr, cycleAction_busy (busy_iff.mpr (.inl h)), exchangeCycle_tx h]
  rfl

theorem step_settle {s : State} (h : s.phase = .settle) (hr : s.pins.rst = false) :
    step s = .next (finishCycle s (settleStep s)) := by
  rw [step_run hr, cycleAction_busy (busy_iff.mpr (.inr (.inl h))), exchangeCycle_settle h]
  rfl

theorem step_rx {s : State} (h : s.phase = .rx) (hr : s.pins.rst = false) :
    step s = .next (finishCycle s (rxStep s)) := by
  rw [step_run hr, cycleAction_busy (busy_iff.mpr (.inr (.inr h))), exchangeCycle_rx h]
  rfl

/-- The edge that accepts an EXCHANGE (R124). -/
theorem step_accept {s : State} {op : Byte} {plen : BitVec 4} {p : Payload} {d : Descriptor} (hp : s.phase = .idle)
    (hv : s.pins.cmdValid = true) (hdec : decode (hostBytes s.pins.cmdWord) = .ok (.exchange op plen p))
    (hreg : registry s.params s.rev op = some d) (hl : plen.toNat ≤ 13) (hr : s.pins.rst = false) :
    step s = .next (finishCycle s (acceptExchange d op plen p s)) := by
  rw [step_run hr]
  simp only [cycleAction, fetchBytes, hp, hv, if_true, hdec, exec, execExchange, commonExchange, exchangeInIdle, hreg]
  rw [if_neg (by omega)]
  rfl

end Sys2Proof.Machine
end

