-- ==== Sys2Proof/Tests/Slice0.lean ====
section
/-! SUPPORT. Tests. The expected values are the spec's own: its examples and derived vectors (spec/95_test_vectors.md), named
at each test, or a hand calculation from the encoding tables. The `witness` theorems show that the hypotheses of the
statements can be met. -/

namespace Sys2Proof.Tests

open Sys2Proof Sys2Proof.Machine

/-- Bytes written as numbers. -/
def by8 (l : List Nat) : List Byte := l.map (BitVec.ofNat 8)

/-- The 13-byte payload field that starts with these bytes. -/
def pay (l : List Nat) : Payload := bytesVec 13 (by8 l)

/-- A bit vector from a list of its fields, lowest first: (width, value). -/
def fields : List (Nat × Nat) → Nat
  | [] => 0
  | (w, v) :: rest => v + 2 ^ w * fields rest

/-- A host command word, field by field (R59): kind 2, rev 1, opcode 8, plen 4 bits, then 13 bytes. -/
def word (kind rev op plen : Nat) (p : List Nat) : HostWord :=
  BitVec.ofNat 119 (fields ([(2, kind), (1, rev), (8, op), (4, plen)] ++ p.map (fun b => (8, b))))

/-- The parameters of the programs of section 3, with every `EXT_LEN` 1. -/
def params : Params :=
  { clkHz := 100, uartFraming := 0, settleCycles := 2, settle_pos := by decide, timeoutCycles := 40, timeout_ge := by decide
    rxFifoDepth := 32, depth_ge := by decide, extLen := Vector.replicate 9 1 }

/-- `params` with the shortest settle, window and FIFO, and the flush. -/
def tight : Params :=
  { clkHz := 100, uartFraming := 0, settleCycles := 1, settle_pos := by decide, timeoutCycles := 28, timeout_ge := by decide
    rxFifoDepth := 28, depth_ge := by decide, rxFlushOnExchange := true, extLen := Vector.replicate 9 0 }

/-- Inputs: a command word at the port or not, `link_ok`, `tx_ready`, a received byte or not. -/
def inputs (cmd : Option HostWord) (link ready : Bool) (rx : Option Nat) : Pins :=
  { rst := false, cmdValid := cmd.isSome, cmdWord := cmd.getD 0, linkOk := link, txReady := ready, rxValid := rx.isSome,
    rxData := BitVec.ofNat 8 (rx.getD 0) }

/-- Quiet inputs with the transmitter ready. -/
def ready : Pins := inputs none false true none

/-- CLOSED, with these inputs. -/
def closed (p : Pins) : State := { State.reset with params := params, pins := p, future := [ready] }

/-- IDLE after a successful OPEN, with these inputs. -/
def idleWith (rev : Revision) (p : Pins) (future : List Pins) : State :=
  { State.reset with
    params := params, state := stIdle, rev := rev, res := resultOf .success (Response.bare .success), pins := p,
    future := future }

/-- IDLE with a quiet port. -/
def idle (rev : Revision) : State := idleWith rev ready []

/-- TX at byte `k` of the frame of SET_FREQ 100000 (V1). -/
def inTx (k : Nat) (p : Pins) (future : List Pins) : State :=
  { State.reset with
    params := params, state := stTx, lat := { op := 1#8, n := 10#5, l := 0#5, remap := false }
    txBuf := bytesVec 18 (by8 [0xFF, 0xFE, 0x10, 0x01, 0xA0, 0x86, 0x01, 0, 0, 0, 0, 0, 0, 0, 0, 0, 0, 0xC8])
    txIdx := BitVec.ofNat 5 k, pins := p, future := future }

/-- SETTLE of that exchange at count `k`. -/
def inSettle (k : Nat) (future : List Pins) : State :=
  { inTx 0 ready future with state := stSettle, cnt := k }

/-- RX of an exchange of opcode 4 at count `cnt`: `have` bytes read, `fifo` waiting. -/
def inRx (cnt : Nat) (got fifo : List Nat) (future : List Pins) : State :=
  { State.reset with
    params := params, state := stRx, lat := { op := 4#8, n := 10#5, l := 4#5, remap := true }
    txBuf := bytesVec 18 (encodeFrame 4#8 [] 0), rxBuf := bytesVec 28 (by8 got), rxCnt := BitVec.ofNat 5 got.length,
    cnt := cnt, fifo := by8 fifo, pins := ready, future := future }

/-- The next state of an outcome. -/
def nextOf : Host.Outcome State Fault Refusal → Option State
  | .next t => some t
  | .fault _ => none
  | .refused _ => none

/-- State, latched descriptor and checksum byte of an outcome's next state. -/
def view (o : Host.Outcome State Fault Refusal) : Option (BitVec 3 × Byte × BitVec 5 × BitVec 5 × Bool × Byte) :=
  (nextOf o).map (fun t => (t.state, t.lat.op, t.lat.n, t.lat.l, t.lat.remap, t.txBuf.toList.getD 17 0#8))

/-- The `status_word` of an outcome's next state. -/
def wordOf (o : Host.Outcome State Fault Refusal) : Option (BitVec 32) := (nextOf o).map statusWord

/-! ### WellFormed: each check refuses an ill-formed instruction -/

/-- R61: 14 and 15 supplied bytes are illegal, 13 are not. -/
theorem test_plenLegal : (Instr.exchange 1#8 14#4 (pay [])).plenLegal = false ∧
    (Instr.exchange 1#8 15#4 (pay [])).wellFormed = false ∧ (Instr.exchange 1#8 13#4 (pay [])).wellFormed = true := by decide

/-- R60: opcode 21 is unassigned, 20 is not. -/
theorem test_opcodeLegal : (Instr.exchange 21#8 0#4 (pay [])).opcodeLegal = false ∧
    (Instr.exchange 21#8 0#4 (pay [])).wellFormed = false ∧ (Instr.exchange 20#8 0#4 (pay [])).wellFormed = true := by decide

/-- R72: opcode 12 exists in the extended revision only. -/
theorem test_existsIn : (Instr.ext0C (pay [])).existsIn .legacy = false ∧ (Instr.ext0C (pay [])).existsIn .extended = true ∧
    (Instr.exchange 12#8 0#4 (pay [])).existsIn .legacy = false ∧ (Instr.exchange 21#8 0#4 (pay [])).existsIn .extended = false := by
  decide

/-! ### Decoding: words written out from R59 (as 15 bytes, low byte first: log 5) and R52 -/

/-- R59: kind 0 in bits 1..0, rev in bit 2; the other fields are ignored. -/
theorem test_decode_openSession : decode (by8 [0x00, 0, 0, 0, 0, 0, 0, 0, 0, 0, 0, 0, 0, 0, 0]) = .ok (.openSession .legacy) ∧
    decode (by8 [0x04, 0, 0, 0, 0, 0, 0, 0, 0, 0, 0, 0, 0, 0, 0]) = .ok (.openSession .extended) ∧
    decode (by8 [0xFC, 0xFF, 0, 0, 0, 0, 0, 0, 0, 0, 0, 0, 0, 0, 0x7F]) = .ok (.openSession .extended) := by decide

/-- P1's word: kind 1, opcode 0x01 in bits 10..3, plen 4 in bits 14..11, byte 0 of the payload in bits 22..15. -/
theorem test_decode_exchange : decode (by8 [0x09, 0x20, 0x50, 0xC3, 0, 0, 0, 0, 0, 0, 0, 0, 0, 0, 0])
      = .ok (.exchange 0x01#8 4#4 (pay [0xA0, 0x86, 0x01])) ∧
    decode (hostBytes (word 1 1 0x14 13 [1, 2, 3, 4, 5, 6, 7, 8, 9, 10, 11, 12, 0xFF]))
      = .ok (.exchange 0x14#8 13#4 (pay [1, 2, 3, 4, 5, 6, 7, 8, 9, 10, 11, 12, 0xFF])) := by decide

/-- R61, R59, R52, R53, R60: what is no instruction. -/
theorem test_decode_refuses : decode (hostBytes (word 2 0 0 0 [])) = .error .reservedKind ∧
    decode (hostBytes (word 3 1 1 0 [])) = .error .reservedKind ∧
    decode (by8 [0, 0, 0, 0, 0, 0, 0, 0, 0, 0, 0, 0, 0, 0, 0x80]) = .error .padBit ∧
    decode (by8 [0xFF, 0xFE, 0x10, 0x00]) = .error .badLength ∧
    decode (by8 [0xFE, 0xFF, 0x10, 0, 0, 0, 0, 0, 0, 0, 0, 0, 0, 0, 0, 0, 0, 0xF0]) = .error .badHeader ∧
    decode (by8 [0xFF, 0xFE, 0x12, 0, 0, 0, 0, 0, 0, 0, 0, 0, 0, 0, 0, 0, 0, 0xEE]) = .error .badLengthByte ∧
    decode (by8 [0xFF, 0xFE, 0x10, 21, 0, 0, 0, 0, 0, 0, 0, 0, 0, 0, 0, 0, 0, 0xDB]) = .error .unassignedOpcode := by decide

/-- The table's words: 119-bit host command words (in 15 whole bytes), and 32-bit big-endian frame words. -/
theorem test_decodeTableWord : decodeTableWord 120 0x0 = some (.openSession .legacy) ∧
    decodeTableWord 120 0x1 = some (.exchange 0#8 0#4 (pay [])) ∧ decodeTableWord 120 0x2 = none ∧
    decodeTableWord 32 0xFFFE1000 = some (.respEcho (pay [])) ∧ decodeTableWord 32 0xFFFE1014 = some (.ext14 (pay [])) ∧
    decodeTableWord 32 0xFFFE1015 = none := by decide

/-- 2.2. -/
theorem test_decode_respEcho : decode (by8 [0xFF, 0xFE, 0x10, 0x00, 0x00, 0x00, 0x00, 0x00, 0x00, 0x00, 0x00, 0x00, 0x00, 0x00, 0x00, 0x00, 0x00, 0xF0]) = .ok (.respEcho (pay [])) := by decide
/-- 2.2 (N, L, remap), 2.2 (checksum). -/
theorem test_exec_respEcho : view (exec (.respEcho (pay [])) (idle .extended))
    = some (stTx, 0x00#8, 10#5, 0#5, false, 0xF0#8) := by decide
/-- V1, E1. -/
theorem test_decode_setFreq : decode (by8 [0xFF, 0xFE, 0x10, 0x01, 0xA0, 0x86, 0x01, 0x00, 0x00, 0x00, 0x00, 0x00, 0x00, 0x00, 0x00, 0x00, 0x00, 0xC8]) = .ok (.setFreq (pay [0xA0, 0x86, 0x01, 0x00])) := by decide
/-- 2.2 (N, L, remap), V1, E1 (checksum). -/
theorem test_exec_setFreq : view (exec (.setFreq (pay [0xA0, 0x86, 0x01, 0x00])) (idle .extended))
    = some (stTx, 0x01#8, 10#5, 0#5, false, 0xC8#8) := by decide
/-- 2.2. -/
theorem test_decode_saveNthFreq : decode (by8 [0xFF, 0xFE, 0x10, 0x02, 0x00, 0x00, 0x00, 0x00, 0x00, 0x00, 0x00, 0x00, 0x00, 0x00, 0x00, 0x00, 0x00, 0xEE]) = .ok (.saveNthFreq (pay [])) := by decide
/-- 2.2 (N, L, remap), 2.2 (checksum). -/
theorem test_exec_saveNthFreq : view (exec (.saveNthFreq (pay [])) (idle .extended))
    = some (stTx, 0x02#8, 10#5, 0#5, false, 0xEE#8) := by decide
/-- 2.2. -/
theorem test_decode_freqCount : decode (by8 [0xFF, 0xFE, 0x10, 0x03, 0x00, 0x00, 0x00, 0x00, 0x00, 0x00, 0x00, 0x00, 0x00, 0x00, 0x00, 0x00, 0x00, 0xED]) = .ok (.freqCount (pay [])) := by decide
/-- 2.2 (N, L, remap), 2.2 (checksum). -/
theorem test_exec_freqCount : view (exec (.freqCount (pay [])) (idle .extended))
    = some (stTx, 0x03#8, 10#5, 1#5, false, 0xED#8) := by decide
/-- E7. -/
theorem test_decode_getNthFreq : decode (by8 [0xFF, 0xFE, 0x10, 0x04, 0x01, 0x00, 0x00, 0x00, 0x00, 0x00, 0x00, 0x00, 0x00, 0x00, 0x00, 0x00, 0x00, 0xEB]) = .ok (.getNthFreq (pay [0x01])) := by decide
/-- 2.2 (N, L, remap), E7 (checksum). -/
theorem test_exec_getNthFreq : view (exec (.getNthFreq (pay [0x01])) (idle .extended))
    = some (stTx, 0x04#8, 10#5, 4#5, true, 0xEB#8) := by decide
/-- 2.2. -/
theorem test_decode_getId : decode (by8 [0xFF, 0xFE, 0x10, 0x05, 0x00, 0x00, 0x00, 0x00, 0x00, 0x00, 0x00, 0x00, 0x00, 0x00, 0x00, 0x00, 0x00, 0xEB]) = .ok (.getId (pay [])) := by decide
/-- 2.2 (N, L, remap), 2.2 (checksum). -/
theorem test_exec_getId : view (exec (.getId (pay [])) (idle .extended))
    = some (stTx, 0x05#8, 28#5, 8#5, false, 0xEB#8) := by decide
/-- 2.2. -/
theorem test_decode_getHwVer : decode (by8 [0xFF, 0xFE, 0x10, 0x06, 0x00, 0x00, 0x00, 0x00, 0x00, 0x00, 0x00, 0x00, 0x00, 0x00, 0x00, 0x00, 0x00, 0xEA]) = .ok (.getHwVer (pay [])) := by decide
/-- 2.2 (N, L, remap), 2.2 (checksum). -/
theorem test_exec_getHwVer : view (exec (.getHwVer (pay [])) (idle .extended))
    = some (stTx, 0x06#8, 10#5, 1#5, false, 0xEA#8) := by decide
/-- V7. -/
theorem test_decode_getFwVer : decode (by8 [0xFF, 0xFE, 0x10, 0x07, 0x01, 0x02, 0x03, 0x00, 0x00, 0x00, 0x00, 0x00, 0x00, 0x00, 0x00, 0x00, 0x00, 0xE3]) = .ok (.getFwVer (pay [0x01, 0x02, 0x03])) := by decide
/-- 2.2 (N, L, remap), V7 (checksum). -/
theorem test_exec_getFwVer : view (exec (.getFwVer (pay [0x01, 0x02, 0x03])) (idle .extended))
    = some (stTx, 0x07#8, 10#5, 3#5, false, 0xE3#8) := by decide
/-- 2.2. -/
theorem test_decode_getPostMult : decode (by8 [0xFF, 0xFE, 0x10, 0x08, 0x00, 0x00, 0x00, 0x00, 0x00, 0x00, 0x00, 0x00, 0x00, 0x00, 0x00, 0x00, 0x00, 0xE8]) = .ok (.getPostMult (pay [])) := by decide
/-- 2.2 (N, L, remap), 2.2 (checksum). -/
theorem test_exec_getPostMult : view (exec (.getPostMult (pay [])) (idle .extended))
    = some (stTx, 0x08#8, 10#5, 1#5, false, 0xE8#8) := by decide
/-- 2.2. -/
theorem test_decode_refClock : decode (by8 [0xFF, 0xFE, 0x10, 0x09, 0x00, 0x00, 0x00, 0x00, 0x00, 0x00, 0x00, 0x00, 0x00, 0x00, 0x00, 0x00, 0x00, 0xE7]) = .ok (.refClock (pay [])) := by decide
/-- 2.2 (N, L, remap), 2.2 (checksum). -/
theorem test_exec_refClock : view (exec (.refClock (pay [])) (idle .extended))
    = some (stTx, 0x09#8, 10#5, 3#5, false, 0xE7#8) := by decide
/-- 2.2. -/
theorem test_decode_getSerial : decode (by8 [0xFF, 0xFE, 0x10, 0x0A, 0x00, 0x00, 0x00, 0x00, 0x00, 0x00, 0x00, 0x00, 0x00, 0x00, 0x00, 0x00, 0x00, 0xE6]) = .ok (.getSerial (pay [])) := by decide
/-- 2.2 (N, L, remap), 2.2 (checksum). -/
theorem test_exec_getSerial : view (exec (.getSerial (pay [])) (idle .extended))
    = some (stTx, 0x0A#8, 28#5, 23#5, false, 0xE6#8) := by decide
/-- 2.2. -/
theorem test_decode_getDip : decode (by8 [0xFF, 0xFE, 0x10, 0x0B, 0x00, 0x00, 0x00, 0x00, 0x00, 0x00, 0x00, 0x00, 0x00, 0x00, 0x00, 0x00, 0x00, 0xE5]) = .ok (.getDip (pay [])) := by decide
/-- 2.2 (N, L, remap), 2.2 (checksum). -/
theorem test_exec_getDip : view (exec (.getDip (pay [])) (idle .extended))
    = some (stTx, 0x0B#8, 10#5, 1#5, false, 0xE5#8) := by decide
/-- E8. -/
theorem test_decode_ext0C : decode (by8 [0xFF, 0xFE, 0x10, 0x0C, 0x02, 0x00, 0x00, 0x00, 0x00, 0x00, 0x00, 0x00, 0x00, 0x00, 0x00, 0x00, 0x00, 0xE2]) = .ok (.ext0C (pay [0x02])) := by decide
/-- 2.2 (N, L, remap), E8 (checksum). -/
theorem test_exec_ext0C : view (exec (.ext0C (pay [0x02])) (idle .extended))
    = some (stTx, 0x0C#8, 10#5, 1#5, false, 0xE2#8) := by decide
/-- 2.2. -/
theorem test_decode_ext0D : decode (by8 [0xFF, 0xFE, 0x10, 0x0D, 0x00, 0x00, 0x00, 0x00, 0x00, 0x00, 0x00, 0x00, 0x00, 0x00, 0x00, 0x00, 0x00, 0xE3]) = .ok (.ext0D (pay [])) := by decide
/-- 2.2 (N, L, remap), 2.2 (checksum). -/
theorem test_exec_ext0D : view (exec (.ext0D (pay [])) (idle .extended))
    = some (stTx, 0x0D#8, 10#5, 1#5, false, 0xE3#8) := by decide
/-- 2.2. -/
theorem test_decode_ext0E : decode (by8 [0xFF, 0xFE, 0x10, 0x0E, 0x00, 0x00, 0x00, 0x00, 0x00, 0x00, 0x00, 0x00, 0x00, 0x00, 0x00, 0x00, 0x00, 0xE2]) = .ok (.ext0E (pay [])) := by decide
/-- 2.2 (N, L, remap), 2.2 (checksum). -/
theorem test_exec_ext0E : view (exec (.ext0E (pay [])) (idle .extended))
    = some (stTx, 0x0E#8, 10#5, 1#5, false, 0xE2#8) := by decide
/-- 2.2. -/
theorem test_decode_ext0F : decode (by8 [0xFF, 0xFE, 0x10, 0x0F, 0x00, 0x00, 0x00, 0x00, 0x00, 0x00, 0x00, 0x00, 0x00, 0x00, 0x00, 0x00, 0x00, 0xE1]) = .ok (.ext0F (pay [])) := by decide
/-- 2.2 (N, L, remap), 2.2 (checksum). -/
theorem test_exec_ext0F : view (exec (.ext0F (pay [])) (idle .extended))
    = some (stTx, 0x0F#8, 10#5, 1#5, false, 0xE1#8) := by decide
/-- 2.2. -/
theorem test_decode_ext10 : decode (by8 [0xFF, 0xFE, 0x10, 0x10, 0x00, 0x00, 0x00, 0x00, 0x00, 0x00, 0x00, 0x00, 0x00, 0x00, 0x00, 0x00, 0x00, 0xE0]) = .ok (.ext10 (pay [])) := by decide
/-- 2.2 (N, L, remap), 2.2 (checksum). -/
theorem test_exec_ext10 : view (exec (.ext10 (pay [])) (idle .extended))
    = some (stTx, 0x10#8, 10#5, 1#5, false, 0xE0#8) := by decide
/-- 2.2. -/
theorem test_decode_ext11 : decode (by8 [0xFF, 0xFE, 0x10, 0x11, 0x00, 0x00, 0x00, 0x00, 0x00, 0x00, 0x00, 0x00, 0x00, 0x00, 0x00, 0x00, 0x00, 0xDF]) = .ok (.ext11 (pay [])) := by decide
/-- 2.2 (N, L, remap), 2.2 (checksum). -/
theorem test_exec_ext11 : view (exec (.ext11 (pay [])) (idle .extended))
    = some (stTx, 0x11#8, 10#5, 1#5, false, 0xDF#8) := by decide
/-- 2.2. -/
theorem test_decode_ext12 : decode (by8 [0xFF, 0xFE, 0x10, 0x12, 0x00, 0x00, 0x00, 0x00, 0x00, 0x00, 0x00, 0x00, 0x00, 0x00, 0x00, 0x00, 0x00, 0xDE]) = .ok (.ext12 (pay [])) := by decide
/-- 2.2 (N, L, remap), 2.2 (checksum). -/
theorem test_exec_ext12 : view (exec (.ext12 (pay [])) (idle .extended))
    = some (stTx, 0x12#8, 10#5, 1#5, false, 0xDE#8) := by decide
/-- 2.2. -/
theorem test_decode_ext13 : decode (by8 [0xFF, 0xFE, 0x10, 0x13, 0x00, 0x00, 0x00, 0x00, 0x00, 0x00, 0x00, 0x00, 0x00, 0x00, 0x00, 0x00, 0x00, 0xDD]) = .ok (.ext13 (pay [])) := by decide
/-- 2.2 (N, L, remap), 2.2 (checksum). -/
theorem test_exec_ext13 : view (exec (.ext13 (pay [])) (idle .extended))
    = some (stTx, 0x13#8, 10#5, 1#5, false, 0xDD#8) := by decide
/-- E5. -/
theorem test_decode_ext14 : decode (by8 [0xFF, 0xFE, 0x10, 0x14, 0xFF, 0xFF, 0xFF, 0xFF, 0xFF, 0xFF, 0xFF, 0xFF, 0xFF, 0xFF, 0xFF, 0xFF, 0xFF, 0xE9]) = .ok (.ext14 (pay [0xFF, 0xFF, 0xFF, 0xFF, 0xFF, 0xFF, 0xFF, 0xFF, 0xFF, 0xFF, 0xFF, 0xFF, 0xFF])) := by decide
/-- 2.2 (N, L, remap), E5 (checksum). -/
theorem test_exec_ext14 : view (exec (.ext14 (pay [0xFF, 0xFF, 0xFF, 0xFF, 0xFF, 0xFF, 0xFF, 0xFF, 0xFF, 0xFF, 0xFF, 0xFF, 0xFF])) (idle .extended))
    = some (stTx, 0x14#8, 10#5, 1#5, false, 0xE9#8) := by decide

/-! ### The host commands: sections 2.2 and 2.4 -/

/-- S5, P4 and S6, P3: OPEN in CLOSED with and without the link. -/
theorem test_open_closed :
    wordOf (exec (.openSession .extended) (closed (inputs none true false none))) = some 0x00000019#32 ∧
    wordOf (exec (.openSession .legacy) (closed (inputs none true false none))) = some 0x00000011#32 ∧
    wordOf (exec (.openSession .legacy) (closed (inputs none false false none))) = some 0x00001210#32 := by decide

/-- S8: OPEN in IDLE. -/
theorem test_open_idle : wordOf (exec (.openSession .extended) (idle .legacy)) = some 0x00000031#32 := by decide

/-- S7, P3: EXCHANGE in CLOSED, an unknown opcode with 15 bytes too. -/
theorem test_exchange_closed : wordOf (exec (.exchange 0x15#8 15#4 (pay [])) (closed ready)) = some 0x00001210#32 := by decide

/-- E9, then G2, G5, G6 (S10, S11, S12): bytes above `plen` are forced to 0; refusals. -/
theorem test_exchange_idle :
    (nextOf (exec (.exchange 0x03#8 0#4 (bytesVec 13 (List.replicate 13 0xAB#8))) (idle .legacy))).map (·.txBuf.toList)
      = some (by8 [0xFF, 0xFE, 0x10, 0x03, 0, 0, 0, 0, 0, 0, 0, 0, 0, 0, 0, 0, 0, 0xED]) ∧
    [(0x0C, 0), (0x15, 15), (0xFE, 0), (0xFF, 0), (0x01, 14)].all (fun x =>
      wordOf (exec (.exchange (BitVec.ofNat 8 x.1) (BitVec.ofNat 4 x.2) (pay [])) (idle .legacy)) = some 0x00000031#32)
      = true := by decide

/-! ### One edge: sections 2.4 and 3 -/

/-- S9, S14, S16: a reserved kind in CLOSED; a byte in CLOSED is dropped without a flag; reset. -/
theorem test_step_closed :
    wordOf (step (closed (inputs (some (word 2 0 0 0 [])) true true none))) = some 0x00000020#32 ∧
    (nextOf (step (closed (inputs none true true (some 0x55))))).map (fun t => (t.fifo, t.fltRxOverflow)) = some ([], false) ∧
    wordOf (step { inRx 3 [1, 2] [3] [] with pins := { ready with rst := true } }) = some 0#32 := by decide

/-- S15 (P5): a byte that meets a full FIFO without a pop is dropped and flagged; with a pop it is kept. -/
theorem test_step_overflow :
    (nextOf (step { inSettle 0 [] with
        params := tight, fifo := List.replicate 28 7#8, pins := inputs none false false (some 0xAA) })).map
      (fun t => (t.fifo.length, t.fltRxOverflow)) = some (28, true) ∧
    (nextOf (step { inRx 0 [] [] [] with
        params := tight, fifo := List.replicate 28 7#8, pins := inputs none false false (some 0xAA) })).map
      (fun t => (t.fifo.length, t.fltRxOverflow, t.fifo.getLast?)) = some (28, false, some 0xAA#8) := by decide

/-- S3 (R131): the tenth byte in the window's last cycle; P1's second exchange. -/
theorem test_step_tie :
    wordOf (step (inRx 39 [0xFF, 0xFE, 0x10, 0xFF, 0, 0, 0, 0, 0] [0xF1] [])) = some 0xFF047E91#32 := by decide

/-- P2: nine bytes and the end of the window. -/
theorem test_step_timeout :
    wordOf (step (inRx 39 [0xFF, 0xFE, 0x10, 0x07, 1, 2, 3, 0, 0] [] [])) = some 0x00001B11#32 := by decide

/-! ### LRC-8, DECODE, REMAP: sections 2.1 and 2.3 -/

/-- T1, T2, T3, T5, T7, T8. -/
theorem test_lrc8 : lrc8 [] = 0x00#8 ∧ lrc8 (by8 [0x10, 0xF0]) = 0x00#8 ∧ lrc8 (by8 [0x10, 0x01]) = 0xEF#8 ∧
    lrc8 (by8 [0x10, 0x14] ++ List.replicate 13 0xFF#8) = 0xE9#8 ∧ lrc8 (List.replicate 25 0xFF#8) = 0x19#8 ∧
    lrc8 (by8 [0x10, 0x0A] ++ List.replicate 23 0xFF#8) = 0xFD#8 := by decide

/-- E1, E4, E6 and E8. -/
theorem test_encodeFrame :
    encodeFrame 1#8 (by8 [0xA0, 0x86, 0x01, 0x00]) 4
      = by8 [0xFF, 0xFE, 0x10, 0x01, 0xA0, 0x86, 0x01, 0, 0, 0, 0, 0, 0, 0, 0, 0, 0, 0xC8] ∧
    encodeFrame 1#8 (le32bytes 6000000) 4
      = by8 [0xFF, 0xFE, 0x10, 0x01, 0x80, 0x8D, 0x5B, 0, 0, 0, 0, 0, 0, 0, 0, 0, 0, 0x87] ∧
    encode (.ext10 (pay [])) = by8 [0xFF, 0xFE, 0x10, 0x10, 0, 0, 0, 0, 0, 0, 0, 0, 0, 0, 0, 0, 0, 0xE0] ∧
    encode (.ext0C (pay [2])) = by8 [0xFF, 0xFE, 0x10, 0x0C, 0x02, 0, 0, 0, 0, 0, 0, 0, 0, 0, 0, 0, 0, 0xE2] := by decide

/-- D-1, D-2, D-4, D-5, D-6. -/
theorem test_decodeResponse :
    decodeResponse (by8 [0xFF, 0xFE, 0x10, 0x04, 0xA0, 0x86, 0x01, 0, 0, 0xC5]) 10 4
      = { code := .success, statusValid := true, status := 4#8, payloadValid := true, payload := by8 [0xA0, 0x86, 1, 0] } ∧
    decodeResponse (by8 [0xFF, 0xFE, 0x10, 0x04, 0xA0, 0x86, 0x01, 0, 0]) 10 4 = Response.bare .errorTimeout ∧
    decodeResponse (by8 [0xFF, 0xFE, 0x10, 0x04, 0xA0, 0x86, 0x01, 0, 0, 0xC4]) 10 4 = Response.bare .errorChecksumOnReceive ∧
    decodeResponse (by8 [0xFF, 0xFE, 0x10, 0xFE, 0, 0, 0, 0, 0, 0xF2]) 10 0
      = { code := .errorChecksumOnSend, statusValid := true, status := 0xFE#8, payloadValid := false, payload := [] } ∧
    decodeResponse (by8 [0xFF, 0xFE, 0x10, 0xFE, 0, 0, 0, 0, 0, 0xF3]) 10 0 = Response.bare .errorChecksumOnReceive := by decide

/-- D-7, D-8, D-9, D-16. -/
theorem test_decodeResponse_status :
    decodeResponse (by8 [0xFF, 0xFE, 0x10, 0xFF, 1, 2, 3, 0, 0, 0xEB]) 10 3
      = { code := .errorGeneric, statusValid := true, status := 0xFF#8, payloadValid := true, payload := by8 [1, 2, 3] } ∧
    decodeResponse (by8 [0xFF, 0xFE, 0x10, 0xFD, 9, 0, 0, 0, 0, 0xEA]) 10 1
      = { code := .success, statusValid := true, status := 0xFD#8, payloadValid := true, payload := by8 [9] } ∧
    decodeResponse (by8 [0, 0, 0x10, 3, 5, 0, 0, 0, 0, 0xE8]) 10 1
      = { code := .success, statusValid := true, status := 3#8, payloadValid := true, payload := by8 [5] } ∧
    (decodeResponse (by8 [0xFF, 0xFE, 0x10, 0xFF] ++ List.replicate 23 0#8 ++ by8 [0xF1]) 28 8).code = .errorGeneric := by
  decide

/-- M1 to M5, and remap 0. -/
theorem test_remapCode : remapCode .errorGeneric true = .errorNoSavedFrequency ∧ remapCode .success true = .success ∧
    remapCode .errorChecksumOnSend true = .errorChecksumOnSend ∧
    remapCode .errorChecksumOnReceive true = .errorChecksumOnReceive ∧ remapCode .errorTimeout true = .errorTimeout ∧
    remapCode .errorGeneric false = .errorGeneric := by decide

/-- H1, H2, H3. -/
theorem test_le32 : le32 (by8 [0xA0, 0x86, 1, 0]) 0 = some 100000 ∧ le32 (by8 [0xFF, 0xFF, 0xFF, 0xFF]) 0 = some 4294967295 ∧
    le32 (by8 [0x10, 0x27, 0]) 0 = none := by decide

/-- H5, H6, H7, V3. -/
theorem test_version_and_multiplier : versionText 0xFF#8 0xFF#8 0xFF#8 = "255.255.255".toList ∧
    (postMultiplier 0#8).toOption = none ∧ (postMultiplier 4#8).toOption = some 8 ∧ (postMultiplier 3#8).toOption = some 4 := by
  decide

/-- H8, H9, H10, and the two bytes C3 A9 of 'é'. -/
theorem test_utf8 : (utf8Text (by8 [0x53, 0x47, 0x50, 0x4C, 0x4F, 0x2D, 0x30, 0x31])).toOption = some "SGPLO-01".toList ∧
    (utf8Text (by8 [0x41, 0])).toOption = some ['A', Char.ofNat 0] ∧ (utf8Text (by8 [0xFF])).toOption = none ∧
    (utf8Text (by8 [0xC3, 0xA9])).toOption = some ['é'] ∧ (utf8Text (by8 [0xC0, 0x80])).toOption = none := by decide

/-! ### Witnesses: the hypotheses of the statements can be met -/

/-- V7's frame. -/
def v7 : List Byte := by8 [0xFF, 0xFE, 0x10, 0x07, 1, 2, 3, 0, 0, 0, 0, 0, 0, 0, 0, 0, 0, 0xE3]

theorem test_witness_EncodeOfDecodedFrame :
    v7.length = 18 ∧ v7.getD 17 0#8 = lrc8 (slice v7 2 16) ∧ decode v7 = .ok (.getFwVer (pay [1, 2, 3])) := by decide

theorem test_witness_HostWordFields :
    ((word 0 0 0 0 []).extractLsb' 0 2 = 0#2 ∧ (word 0 0 0 0 []).extractLsb' 2 1 = 0#1) ∧
    ((word 0 1 255 15 []).extractLsb' 0 2 = 0#2 ∧ (word 0 1 255 15 []).extractLsb' 2 1 = 1#1) ∧
    (word 1 0 255 15 []).extractLsb' 0 2 = 1#2 ∧ (word 2 0 0 0 []).extractLsb' 0 2 = 2#2 ∧
    (word 3 0 0 0 []).extractLsb' 0 2 = 3#2 := by decide

/-- A frame with the given first four bytes. -/
def start (a b c d : Nat) : List Byte := by8 [a, b, c, d, 0, 0, 0, 0, 0, 0, 0, 0, 0, 0, 0, 0, 0, 0]

theorem test_witness_FrameFieldsDecode :
    ((start 0xFF 0xFE 0x10 20).length = 18 ∧ slice (start 0xFF 0xFE 0x10 20) 0 2 = [0xFF#8, 0xFE#8, 0x10#8] ∧
      ((start 0xFF 0xFE 0x10 20).getD 3 0#8).toNat ≤ 20) ∧
    (slice (start 0xFF 0xFE 0x10 21) 0 2 = [0xFF#8, 0xFE#8, 0x10#8] ∧ 20 < ((start 0xFF 0xFE 0x10 21).getD 3 0#8).toNat) ∧
    slice (start 0xFF 0xFF 0x10 0) 0 1 ≠ [0xFF#8, 0xFE#8] ∧
    (slice (start 0xFF 0xFE 0x11 0) 0 1 = [0xFF#8, 0xFE#8] ∧ (start 0xFF 0xFE 0x11 0).getD 2 0#8 ≠ 0x10#8) := by decide

theorem test_witness_LrcClosesTheSum : 3 ≤ (by8 [1, 2, 3]).length := by decide

theorem test_witness_LrcDetection : (1#8 : Byte) ≠ 2#8 ∧ (by8 [1, 2, 3]).Perm (by8 [3, 1, 2]) := by decide

theorem test_witness_EncodeFrameLayout :
    (0 ≤ 13 ∧ (by8 []).length = 0) ∧ (13 ≤ 13 ∧ (List.replicate 13 0xFF#8).length = 13) := by decide

theorem test_witness_EncodedFrameRoundTrip : 0 ≤ 13 ∧ 13 ≤ 13 ∧ (0xFD#8 : Byte).toNat ≤ 0xFD ∧
    registry params .extended 0x14#8 ≠ none := by decide

theorem test_witness_ChecksumVerdict :
    (3 ≤ 3 ∧ lrc8 (slice (by8 [0, 0, 0]) 2 1) = (by8 [0, 0, 0]).getD 2 0#8) ∧
    ((by8 [0, 0, 1]).length = 3 ∧ byteSum (slice (by8 [0, 0, 1]) 2 2) % 256 ≠ 0) := by decide

/-- One frame for each kind of record: a success with 5 payload bytes, and a short read. -/
theorem test_witness_ResponseFieldsByCode : 5 + 5 ≤ 10 ∧ 23 + 5 ≤ 28 ∧
    (decodeResponse (by8 [0, 0, 0, 0, 0, 0, 0, 0, 0, 0]) 10 5).payloadValid = true ∧
    (decodeResponse (by8 [0, 0, 0, 0, 0, 0, 0, 0, 0]) 10 5).statusValid = false ∧
    (decodeResponse (by8 [0, 0, 0, 0xFE, 0, 0, 0, 0, 0, 2]) 10 5).payloadValid = false ∧
    (decodeResponse (by8 [0, 0, 0, 0xFE, 0, 0, 0, 0, 0, 2]) 10 5).statusValid = true := by decide

theorem test_witness_ValidatorIgnoresHeader : by8 [1] ≠ [] ∧
    ((by8 [0xFF, 0xFE, 0x10]).length = 3 ∧ (by8 [0, 0, 0]).length = 3 ∧ (by8 [0, 0]).length = (by8 [0x11, 0]).length ∧
      10 = 5 + (by8 [5, 6, 7]).length + (by8 [0, 0]).length) := by decide

theorem test_witness_CompleteWritesResult :
    (Response.mk .success true 0x0A#8 true (List.replicate 23 0xFF#8)).payload.length ≤ 23 ∧
    (Response.bare .errorTimeout).payload.length ≤ 23 := by decide

theorem test_witness_RegistryFitsFrames :
    registry params .legacy 0x0A#8 = some { opcode := 0x0A#8, len := 23#5, variant := .large, remap := false } ∧
    (∃ r ∈ [RegistryRow.mk .extended { opcode := 0x0C#8, len := 6#5, variant := .standard, remap := false }],
      (responseLength r.desc.variant).toNat - 5 < r.desc.len.toNat) := by decide

theorem test_witness_DefaultRegistryRevisions : 12 ≤ (0x14#8 : Byte).toNat ∧ 12 ≤ (0x0C#8 : Byte).toNat ∧
    registryLookup (defaultRegistry (Vector.replicate 9 1)) .extended 0x14#8
      = some { opcode := 0x14#8, len := 1#5, variant := .standard, remap := false } ∧
    registryLookup (defaultRegistry (Vector.replicate 9 0)) .extended 0x0C#8
      = some { opcode := 0x0C#8, len := 0#5, variant := .standard, remap := false } := by decide

theorem test_witness_RemapOnlyAtOpcodeFour :
    registry params .legacy 4#8 = some { opcode := 4#8, len := 4#5, variant := .standard, remap := true } ∧
    registry params .legacy 3#8 = some { opcode := 3#8, len := 1#5, variant := .standard, remap := false } := by decide

theorem test_witness_SentinelsAreNoOpcodes : (0xFE#8 : Byte) = 0xFE#8 ∧ (0xFF#8 : Byte) = 0xFF#8 ∧ (idle .legacy).phase = .idle ∧
    (inTx 0 ready []).busy = true := by decide

theorem test_witness_OpenCompletes :
    ((closed (inputs none true false none)).phase = .closed ∧ (closed (inputs none true false none)).pins.linkOk = true) ∧
    ((closed (inputs none false false none)).phase = .closed ∧ (closed (inputs none false false none)).pins.linkOk = false) := by
  decide

theorem test_witness_ExchangeWithoutSession : (closed ready).phase = .closed ∧
    frameRow 0x14#8 (pay [7]) = some (.ext14 (pay [7])) ∧ frameRow 0#8 (pay [7]) = some (.respEcho (pay [7])) := by decide

theorem test_witness_ExchangeAccepted : (idle .extended).phase = .idle ∧
    registry (idle .extended).params (idle .extended).rev 0x0C#8
      = some { opcode := 0x0C#8, len := 1#5, variant := .standard, remap := false } ∧ (13#4).toNat ≤ 13 := by decide

theorem test_witness_RefusedCommands : (idle .legacy).phase = .idle ∧
    registry (idle .legacy).params (idle .legacy).rev 0x0C#8 = none ∧ 14 ≤ (14#4).toNat := by decide

/-- Host-side parameters: the byte 1 is the only legal value of either enum, an argument is the first payload byte. -/
def hostParams : HostParams where
  extName := #v[.setOutputPower, .getOutputPower, .setOutputConfig, .getOutputConfig, .setRefClockConfig, .getRefClockConfig,
    .getFrequency, .getLockStatus, .refClock]
  outputConfigMap := fun b => if b = 1#8 then some .both else none
  refClockSourceMap := fun b => if b = 1#8 then some .internal else none
  refclkDecode := none
  argumentPayload := fun _ n => (1#4, pay [n])
  internalSerialOpcode := some 0x15#8

/-- R66, R148: P1's SET_FREQ word; the index and the enum values that pass the check. -/
theorem test_commandOf_ok : commandOf hostParams (.setFreq 100000) = .ok (.exchange 0x01#8 4#4 (pay [0xA0, 0x86, 0x01])) ∧
    callPins hostParams (.setFreq 100000) ready = { ready with cmdValid := true, cmdWord := word 1 0 1 4 [0xA0, 0x86, 0x01] } ∧
    commandOf hostParams (.getNthFreq 0) = .ok (.exchange 0x04#8 1#4 (pay [])) ∧
    commandOf hostParams (.setOutputConfig 1) = .ok (.exchange 0x0E#8 1#4 (pay [1])) ∧
    commandOf hostParams (.setRefClockSource 1) = .ok (.exchange 0x10#8 1#4 (pay [1])) := by
  refine ⟨rfl, by decide, rfl, rfl, rfl⟩

/-- R148: a negative index, enum values out of range, a frequency beyond 32 bits. -/
theorem test_commandOf_rejects : commandOf hostParams (.getNthFreq (-1)) = .error .negativeIndex ∧
    commandOf hostParams (.saveNthFreq (-1)) = .error .negativeIndex ∧
    commandOf hostParams (.setOutputConfig 2) = .error .enumOutOfRange ∧
    commandOf hostParams (.setRefClockSource 257) = .error .enumOutOfRange ∧
    commandOf hostParams (.setFreq 4294967296) = .error .frequencyOutOfRange ∧
    (callPins hostParams (.getNthFreq (-1)) (inputs (some 0) true true none)).cmdValid = false := by
  refine ⟨rfl, rfl, rfl, rfl, rfl, rfl⟩

/-- The four forms of an invalid argument at their bounds. -/
theorem test_witness_CyclesWithoutInstruction_calls :
    (-1 : Int) < 0 ∧ (∀ b : Byte, (256 : Int) = b.toNat → hostParams.outputConfigMap b = none) ∧
    (∀ b : Byte, (0 : Int) = b.toNat → hostParams.refClockSourceMap b = none) ∧ (2 ^ 32 : Int) ≤ 4294967296 := by
  refine ⟨by decide, fun b h => ?_, fun b h => ?_, by decide⟩
  · have := b.isLt
    omega
  · have hb : b = 0#8 := BitVec.eq_of_toNat_eq (by simpa using h.symm)
    subst hb
    rfl

theorem test_witness_CyclesWithoutInstruction :
    ((closed ready).pins.rst = false ∧ (closed ready).phase = .closed ∧ (closed ready).pins.cmdValid = false) ∧
    ((idle .legacy).pins.rst = false ∧ (idle .legacy).phase = .idle ∧ (idle .legacy).pins.cmdValid = false) ∧
    (∀ s ∈ [closed (inputs (some (word 2 0 0 0 [])) true true none),
        idleWith .legacy (inputs (some (word 3 1 255 15 [])) true true none) []],
      s.pins.rst = false ∧ (s.phase = .closed ∨ s.phase = .idle) ∧ s.pins.cmdValid = true ∧
        (s.pins.cmdWord.extractLsb' 0 2 = 2#2 ∨ s.pins.cmdWord.extractLsb' 0 2 = 3#2)) := by
  refine ⟨by decide, by decide, ?_⟩
  intro s hs
  simp only [List.mem_cons, List.not_mem_nil, or_false] at hs
  rcases hs with rfl | rfl <;> decide

/-- The default rows of a revision, but for opcode 0 in a Large frame and opcode 10 with another row (R74, D10, I3). -/
def otherRows (rev : Revision) : List RegistryRow :=
  ({ opcode := 0x00#8, len := 0#5, variant := .large, remap := false } ::
    { opcode := 0x0A#8, len := 5#5, variant := .standard, remap := false } :: fixedRows).map
    (fun d => { rev := rev, desc := d })

/-- R74: a registry may differ at opcode 10 and in the variant of opcode 0, not in a fixed row nor in the L of opcode 0; R69. -/
theorem test_registryOk :
    registryOk (otherRows .legacy ++ defaultRegistry (Vector.replicate 9 0)) = true ∧
    registryOk ({ rev := .legacy, desc := { opcode := 1#8, len := 1#5, variant := .standard, remap := false } }
      :: defaultRegistry (Vector.replicate 9 0)) = false ∧
    registryOk ({ rev := .legacy, desc := { opcode := 0#8, len := 1#5, variant := .standard, remap := false } }
      :: defaultRegistry (Vector.replicate 9 0)) = false ∧
    registryOk ({ rev := .extended, desc := { opcode := 10#8, len := 6#5, variant := .standard, remap := false } }
      :: defaultRegistry (Vector.replicate 9 0)) = false := by decide

/-- R7: the settle and the window have their defaults from `CLK_HZ`. -/
theorem test_paramsDefaults :
    let ps : Params := { clkHz := 1000000, uartFraming := 0, settle_pos := by decide, timeout_ge := by decide
                         rxFifoDepth := 64, depth_ge := by decide, extLen := Vector.replicate 9 1 }
    ps.settleCycles = 500000 ∧ ps.timeoutCycles = 2000000 ∧ ps.baud = 9600 ∧ ps.rxFlushOnExchange = false := by decide

/-- A state of a default registry, and one whose registry differs at opcodes 0 and 10. -/
theorem test_witness_LegacyOpcodesAccepted :
    ((idle .legacy).phase = .idle ∧ (idle .legacy).params.registry = defaultRegistry (Vector.replicate 9 1)) ∧
    ∃ ps : Params, ({ idle .legacy with params := ps } : State).phase = .idle ∧
      registry ps .legacy 0x00#8 = some { opcode := 0x00#8, len := 0#5, variant := .large, remap := false } ∧
      registry ps .legacy 0x0A#8 = some { opcode := 0x0A#8, len := 5#5, variant := .standard, remap := false } :=
  ⟨⟨by decide, rfl⟩,
    { params with
      registry := otherRows .legacy ++ defaultRegistry (Vector.replicate 9 0), registry_ok := test_registryOk.1 },
    by decide, by decide, by decide⟩

theorem test_witness_ExtendedOpcodesAccepted :
    ((idle .extended).phase = .idle ∧ (idle .extended).rev = .extended ∧
      (idle .extended).params.registry = defaultRegistry (Vector.replicate 9 1)) ∧
    ((idle .legacy).phase = .idle ∧ (idle .legacy).rev = .legacy) := by
  refine ⟨⟨by decide, by decide, rfl⟩, by decide, by decide⟩

theorem test_witness_ExchangeIsItsRow :
    ((13#4).toNat ≤ 13 ∧ frameRow 0x14#8 (bytesVec 13 ((pay [7]).toList.take (13#4).toNat)) = some (.ext14 (pay [7]))) ∧
    ((0#4).toNat ≤ 13 ∧ frameRow 0#8 (bytesVec 13 ((pay [7]).toList.take (0#4).toNat)) = some (.respEcho (pay []))) := by decide

theorem test_witness_TransmitCycle : (inTx 0 ready []).phase = .tx ∧ (inTx 17 ready []).phase = .tx := by decide

theorem test_witness_SettleCycle : (inSettle 0 []).phase = .settle ∧
    ((inSettle 1 []).phase = .settle ∧ (inSettle 1 []).cnt = (inSettle 1 []).params.settleCycles - 1) := by decide

/-- A byte that goes on, the tenth byte, the tenth in the last cycle, and the ninth in the last cycle. -/
theorem test_witness_ReadCycleWithByte :
    ∀ s ∈ [inRx 0 [] [1, 2] [], inRx 9 [1, 2, 3, 4, 5, 6, 7, 8, 9] [1] [], inRx 39 [1, 2, 3, 4, 5, 6, 7, 8, 9] [1] [],
      inRx 39 [1, 2, 3, 4, 5, 6, 7, 8] [1] []], s.phase = .rx ∧ ∃ rest, s.fifo = 1#8 :: rest := by
  intro s hs
  simp only [List.mem_cons, List.not_mem_nil, or_false] at hs
  rcases hs with rfl | rfl | rfl | rfl <;> exact ⟨by decide, _, rfl⟩

theorem test_witness_ReadCycleWithoutByte :
    ((inRx 39 [] [] []).phase = .rx ∧ (inRx 39 [] [] []).fifo = [] ∧
      (inRx 39 [] [] []).rxCnt.toNat < (inRx 39 [] [] []).lat.n.toNat) ∧
    ((inRx 0 [1, 2, 3, 4, 5, 6, 7, 8, 9] [] []).phase = .rx ∧ (inRx 0 [1, 2, 3, 4, 5, 6, 7, 8, 9] [] []).fifo = [] ∧
      (inRx 0 [1, 2, 3, 4, 5, 6, 7, 8, 9] [] []).rxCnt.toNat < (inRx 0 [1, 2, 3, 4, 5, 6, 7, 8, 9] [] []).lat.n.toNat) := by
  decide

/-- V2's frame, one byte before its end. -/
def atLastByte : State := inRx 9 [0xFF, 0xFE, 0x10, 0xFF, 0, 0, 0, 0, 0] [0xF1] [ready]

theorem test_witness_RemapFiresOnGenericError : atLastByte.phase = .rx ∧ atLastByte.fifo ≠ [] ∧
    atLastByte.rxCnt + 1#5 = atLastByte.lat.n ∧ ∃ t, exec (.getNthFreq (pay [])) atLastByte = .next t :=
  ⟨by decide, by decide, by decide, _, rfl⟩

theorem test_witness_IllegalStateFaults :
    (∀ v ∈ [5#3, 7#3], 5 ≤ ({ idle .legacy with state := v } : State).state.toNat ∧
      ({ idle .legacy with state := v } : State).pins.rst = false) ∧
    (inTx 17 ready [ready]).state.toNat ≤ 4 ∧ ∃ t, step (inTx 17 ready [ready]) = .next t :=
  ⟨by decide, by decide, _, rfl⟩

theorem test_witness_StepRunsDecodedInstruction :
    ((closed (inputs (some (word 0 1 0 0 [])) true true none)).pins.rst = false ∧
      fetchBytes (closed (inputs (some (word 0 1 0 0 [])) true true none)) = some (hostBytes (word 0 1 0 0 [])) ∧
      decode (hostBytes (word 0 1 0 0 [])) = .ok (.openSession .extended)) ∧
    ((inTx 3 ready []).pins.rst = false ∧ fetchBytes (inTx 3 ready []) = some (inTx 3 ready []).txBuf.toList ∧
      decode (inTx 3 ready []).txBuf.toList = .ok (.setFreq (pay [0xA0, 0x86, 1])) ∧
      ∃ u, exec (.setFreq (pay [0xA0, 0x86, 1])) (inTx 3 ready []) = .next u) :=
  ⟨by decide, by decide, by decide, by decide, _, rfl⟩

theorem test_witness_ResetEdge : ({ atLastByte with pins := { ready with rst := true } } : State).pins.rst = true := by decide

/-- A pop with a push into the full FIFO, an overflow, a flush with a push, and a byte in CLOSED. -/
theorem test_witness_FifoUpdate :
    ∀ s ∈ [{ inRx 0 [] [1] [ready] with fifo := List.replicate 32 1#8, pins := inputs none true true (some 2) },
        { inSettle 0 [ready] with fifo := List.replicate 32 1#8, pins := inputs none true true (some 2) },
        { idleWith .legacy (inputs (some (word 1 0 1 0 [])) true true (some 2)) [ready] with
          params := tight, fifo := [1#8] },
        closed (inputs none true true (some 2))],
      s.pins.rst = false ∧ s.fifo.length ≤ s.params.rxFifoDepth ∧ ∃ t, step s = .next t := by
  intro s hs
  simp only [List.mem_cons, List.not_mem_nil, or_false] at hs
  rcases hs with rfl | rfl | rfl | rfl <;> exact ⟨by decide, by decide, _, rfl⟩

theorem test_witness_CommandPortIgnoredInFlight :
    (inTx 0 ready []).busy = true ∧ (inSettle 0 []).busy = true ∧ atLastByte.busy = true := by decide

theorem test_witness_FaultsAreSticky :
    ({ atLastByte with fltCmd := true, fltRxOverflow := true } : State).pins.rst = false ∧
    ∃ t, step { atLastByte with fltCmd := true, fltRxOverflow := true } = .next t := ⟨by decide, _, rfl⟩

theorem test_witness_SessionLastsUntilReset :
    atLastByte.pins.rst = false ∧ atLastByte.phase ≠ .closed ∧ ∃ t, step atLastByte = .next t := ⟨by decide, by decide, _, rfl⟩

/-- An OPEN in CLOSED with the link available, and one without. -/
def opening (link : Bool) : State := closed (inputs (some (word 0 1 0 0 [])) link true none)

theorem test_witness_RevisionWrittenByOpen :
    ((opening true).pins.rst = false ∧ (opening true).phase = .closed ∧
      ∃ t, step (opening true) = .next t ∧ t.phase = .idle ∧ t.rev = .extended) ∧
    ((opening false).pins.rst = false ∧ (opening false).phase = .closed ∧
      ∃ t, step (opening false) = .next t ∧ t.phase ≠ .idle) :=
  ⟨⟨by decide, by decide, _, rfl, by decide, by decide⟩, by decide, by decide, _, rfl, by decide⟩

/-- IDLE at the edge that accepts SET_FREQ 100000, with `n` scripted edges after it. -/
def accepting (rev : Revision) (future : List Pins) : State :=
  idleWith rev (inputs (some (word 1 0 1 4 [0xA0, 0x86, 1])) true true none) future

theorem test_witness_ResultStability :
    (∃ t, step (opening true) = .next t ∧ t.res ≠ (opening true).res) ∧
    (∃ t, step (accepting .legacy [ready]) = .next t ∧ t.res ≠ (accepting .legacy [ready]).res) ∧
    (∃ t, step atLastByte = .next t ∧ t.res ≠ atLastByte.res) :=
  ⟨⟨_, rfl, by decide⟩, ⟨_, rfl, by decide⟩, _, rfl, by decide⟩

theorem test_witness_BuffersWrittenOnlyWhere :
    (∃ t, step (accepting .legacy [ready]) = .next t ∧ t.lat ≠ (accepting .legacy [ready]).lat ∧
      t.txBuf ≠ (accepting .legacy [ready]).txBuf) ∧
    (∃ t, step atLastByte = .next t ∧ t.rxBuf ≠ atLastByte.rxBuf) :=
  ⟨⟨_, rfl, by decide, by decide⟩, _, rfl, by decide⟩

theorem test_witness_ParametersAndInputs : (∃ t, step atLastByte = .next t) ∧
    ∃ t, step { atLastByte with pins := { ready with rst := true } } = .next t := ⟨⟨_, rfl⟩, _, rfl⟩

/-- A state in mid-read satisfies the invariant, and it has a next state. -/
theorem test_witness_StepKeepsInvariant : atLastByte.Inv ∧ ∃ t, step atLastByte = .next t := by
  refine ⟨⟨by decide, by decide, by decide, by decide, by decide, by decide, by decide, by decide, by decide, by decide,
    by decide, by decide, ?_⟩, _, rfl⟩
  refine ⟨by decide, by decide, fun i _ => ?_, by decide, by decide, by decide, by decide, by decide, by decide⟩
  show (bytesVec 23 []).toList.getD i 0#8 = 0#8
  have h : (bytesVec 23 []).toList = List.replicate 23 0#8 := by decide
  rw [h]
  rcases Nat.lt_or_ge i 23 with h2 | h2
  · rw [List.getD_eq_getElem _ _ (by simpa using h2), List.getElem_replicate]
  · rw [List.getD_eq_default _ _ (by simpa using h2)]

/-- The same state meets the third clause of SentinelsAreNoOpcodes. -/
theorem test_witness_SentinelsAreNoOpcodes_inFlight : atLastByte.Inv ∧ atLastByte.busy = true :=
  ⟨test_witness_StepKeepsInvariant.1, by decide⟩

theorem test_witness_InvariantStepsOn : atLastByte.Inv := test_witness_StepKeepsInvariant.1

theorem test_witness_WarningNeverProduced : (∃ t, step atLastByte = .next t) ∧
    atLastByte.res.code ≠ .warningFrequencyOutOfRange ∧ atLastByte.res.rawCode ≠ .warningFrequencyOutOfRange :=
  ⟨⟨_, rfl⟩, by decide, by decide⟩

theorem test_witness_FrameGoesOut :
    (inTx 0 ready (List.replicate 17 ready)).phase = .tx ∧ (inTx 0 ready (List.replicate 17 ready)).txIdx = 0#5 ∧
    NoReset 18 (inTx 0 ready (List.replicate 17 ready)) ∧ TxAlwaysReady 18 (inTx 0 ready (List.replicate 17 ready)) := by decide

theorem test_witness_TransmitStall :
    (inTx 17 Pins.quiet [Pins.quiet, Pins.quiet]).phase = .tx ∧ NoReset 3 (inTx 17 Pins.quiet [Pins.quiet, Pins.quiet]) ∧
    ∀ j, j < 3 → (State.pinsAt j (inTx 17 Pins.quiet [Pins.quiet, Pins.quiet])).txReady = false := by decide

theorem test_witness_SettleLength : (inSettle 0 [ready]).phase = .settle ∧ (inSettle 0 [ready]).cnt = 0 ∧
    NoReset (inSettle 0 [ready]).params.settleCycles (inSettle 0 [ready]) := by decide

/-- RX at its start, ten bytes and one of surplus in the FIFO. -/
def fullRx : State := inRx 0 [] [0xFF, 0xFE, 0x10, 0x04, 0xA0, 0x86, 1, 0, 0, 0xC5, 9] (List.replicate 9 ready)

theorem test_witness_WholeResponseIsRead : fullRx.phase = .rx ∧ fullRx.cnt = 0 ∧ fullRx.rxCnt = 0#5 ∧ 1 ≤ fullRx.lat.n.toNat ∧
    fullRx.lat.n.toNat ≤ 28 ∧ fullRx.lat.n.toNat ≤ fullRx.fifo.length ∧ fullRx.fifo.length ≤ fullRx.params.rxFifoDepth ∧
    NoReset fullRx.lat.n.toNat fullRx := by decide

/-- RX at its start with the shortest window, four bytes there, five more in time. -/
def shortRx : State :=
  { inRx 0 [] [0xFF, 0xFE, 0x10, 0x04] (List.replicate 5 (inputs none true true (some 1)) ++ List.replicate 22 ready) with
    params := tight }

theorem test_witness_ShortResponseTimesOut : shortRx.phase = .rx ∧ shortRx.cnt = 0 ∧ shortRx.rxCnt = 0#5 ∧
    shortRx.lat.n.toNat ≤ 28 ∧
    (shortRx.fifo ++ arrivalsIn (shortRx.params.timeoutCycles - 1) shortRx).length < shortRx.lat.n.toNat ∧
    NoReset shortRx.params.timeoutCycles shortRx := by decide

/-- The inputs of an exchange whose ten response bytes come during TX, for the parameters `tight` (settle 1). -/
def answered : State :=
  { accepting .legacy (List.replicate 10 (inputs none true true (some 0)) ++ List.replicate 19 ready) with params := tight }

theorem test_witness_ExchangeEarliestCompletion :
    answered.phase = .idle ∧ answered.pins.cmdValid = true ∧
    decode (hostBytes answered.pins.cmdWord) = .ok (.exchange 1#8 4#4 (pay [0xA0, 0x86, 1])) ∧
    registry answered.params answered.rev 1#8 = some { opcode := 1#8, len := 0#5, variant := .standard, remap := false } ∧
    (4#4).toNat ≤ 13 ∧ 10 = (responseLength .standard).toNat ∧ NoReset (19 + answered.params.settleCycles + 10) answered ∧
    (∀ j, 1 ≤ j → j ≤ 18 → (State.pinsAt j answered).txReady = true) ∧
    10 ≤ ((if answered.params.rxFlushOnExchange then [] else answered.fifo)
      ++ arrivalsIn (19 + answered.params.settleCycles) answered).length ∧
    ((if answered.params.rxFlushOnExchange then [] else answered.fifo)
      ++ arrivalsIn (19 + answered.params.settleCycles) answered).length ≤ answered.params.rxFifoDepth := by
  refine ⟨by decide, by decide, by decide, by decide, by decide, by decide, by decide, ?_, by decide, by decide⟩
  intro j h1 h2
  have h : ∀ j, j < 19 → (State.pinsAt j answered).txReady = true := by decide
  exact h j (by omega)

/-- The inputs of an exchange that nothing answers, over twelve stale bytes that the parameters `tight` flush. -/
def unanswered : State :=
  { accepting .legacy (List.replicate 48 ready) with params := tight, fifo := List.replicate 12 1#8 }

theorem test_witness_ExchangeLatestCompletion :
    unanswered.phase = .idle ∧ unanswered.pins.cmdValid = true ∧
    decode (hostBytes unanswered.pins.cmdWord) = .ok (.exchange 1#8 4#4 (pay [0xA0, 0x86, 1])) ∧
    registry unanswered.params unanswered.rev 1#8 = some { opcode := 1#8, len := 0#5, variant := .standard, remap := false } ∧
    (4#4).toNat ≤ 13 ∧ NoReset (19 + unanswered.params.settleCycles + unanswered.params.timeoutCycles) unanswered ∧
    (∀ j, 1 ≤ j → j ≤ 18 → (State.pinsAt j unanswered).txReady = true) ∧
    ((if unanswered.params.rxFlushOnExchange then [] else unanswered.fifo)
      ++ arrivalsIn (18 + unanswered.params.settleCycles + unanswered.params.timeoutCycles) unanswered).length
      < (responseLength .standard).toNat := by
  refine ⟨by decide, by decide, by decide, by decide, by decide, by decide, ?_, by decide⟩
  intro j h1 h2
  have h : ∀ j, j < 19 → (State.pinsAt j unanswered).txReady = true := by decide
  exact h j (by omega)

/-- Two states that differ in what earlier exchanges left behind. -/
theorem test_witness_ReplayStability :
    let s₁ := accepting .legacy [ready]
    let s₂ := { s₁ with rxBuf := bytesVec 28 (by8 [1, 2, 3]), rxCnt := 9#5, cnt := 39, fltCmd := true }
    s₁ ≠ s₂ ∧ s₁.phase = .idle ∧ s₂.phase = .idle ∧ s₁.params = s₂.params ∧ s₁.rev = s₂.rev ∧ s₁.fifo = [] ∧ s₂.fifo = [] ∧
    (∀ k, State.pinsAt k s₁ = State.pinsAt k s₂) ∧ s₁.pins.rst = false ∧ s₁.pins.cmdValid = true ∧
    decode (hostBytes s₁.pins.cmdWord) = .ok (.exchange 1#8 4#4 (pay [0xA0, 0x86, 1])) ∧
    registry s₁.params s₁.rev 1#8 = some { opcode := 1#8, len := 0#5, variant := .standard, remap := false } ∧
    (4#4).toNat ≤ 13 := by
  refine ⟨fun h => absurd (congrArg State.cnt h) (by decide), rfl, rfl, rfl, rfl, rfl, rfl,
    fun k => pinsAt_congr k rfl rfl rfl, rfl, rfl, by decide, by decide, by decide⟩

theorem test_witness_HandshakeOutputs : (inTx 17 ready []).state = 2#3 ∧ (idle .legacy).state ≠ 2#3 := by decide

theorem test_witness_KilohertzRoundTrip : 0 < 2 ^ 32 ∧ 4294967295 < 2 ^ 32 := by decide

/-- Any host-side parameters; opcode 3 does not read them. -/
theorem test_witness_TypedValueOnlyOnSuccess (hp : HostParams) :
    hostDecode hp 3#8 (resultOf .success { Response.bare .success with payloadValid := true, payload := [5#8] })
      = .ok (.rawByte 5) ∧ (resultOf .errorTimeout (Response.bare .errorTimeout)).code ≠ .success := ⟨rfl, by decide⟩

/-- R143's example, as the reply of get-id and of an internal serial number at opcode 21; opcode 22 has no command. -/
theorem test_decodePayload_text :
    decodePayload hostParams 0x05#8 (by8 [0x53, 0x47, 0x50, 0x4C, 0x4F, 0x2D, 0x30, 0x31])
      = .ok (.text ['S', 'G', 'P', 'L', 'O', '-', '0', '1']) ∧
    decodePayload hostParams 0x15#8 (by8 [0x53, 0x00]) = .ok (.text ['S', Char.ofNat 0]) ∧
    decodePayload hostParams 0x16#8 (by8 [0x53]) = .error .unnamedCommand := ⟨rfl, rfl, rfl⟩

/-- The third form of the text clause at its bound. -/
theorem test_witness_HostTextAndNumbers_internal :
    20 < (0x15#8 : Byte).toNat ∧ hostParams.internalSerialOpcode = some 0x15#8 := ⟨by decide, rfl⟩

theorem test_witness_HostTextAndNumbers : (0#8 : Byte) = 0#8 ∧ 1 ≤ (1#8 : Byte).toNat ∧
    (∀ b ∈ by8 [0x41, 0, 0x7F], b.toNat < 0x80) ∧ (∃ b ∈ by8 [0x41, 0xF8], 0xF8 ≤ b.toNat) := by decide

end Sys2Proof.Tests
end

/-! ### The illegal control states (R35) -/

namespace Sys2Proof.Machine

theorem phase_eq_illegal_iff {s : State} : s.phase = .illegal ↔ 5 ≤ s.state.toNat := by
  unfold State.phase phaseOf
  split <;> simp_all
  omega

theorem phase_ne_illegal_iff {s : State} : s.phase ≠ .illegal ↔ s.state.toNat ≤ 4 := by
  rw [Ne, phase_eq_illegal_iff]
  omega

/-! #### An illegal state has no instruction and no edge -/

/-- The two kinds of instruction: OPEN, and the common exchange of some opcode, length and payload (R121). -/
theorem exec_cases (i : Instr) :
    (∃ rev, ∀ s, exec i s = execOpen rev s) ∨ (∃ op plen p, ∀ s, exec i s = commonExchange op plen p s) := by
  cases i with
  | openSession rev => exact .inl ⟨rev, fun _ => rfl⟩
  | _ => exact .inr ⟨_, _, _, fun _ => rfl⟩

theorem exec_illegal (i : Instr) {s : State} (h : s.phase = .illegal) : exec i s = .fault .illegalState := by
  rcases exec_cases i with ⟨rev, he⟩ | ⟨op, plen, p, he⟩
  · simp [he, execOpen, h]
  · simp [he, commonExchange, h]

theorem step_illegal {s : State} (h : s.phase = .illegal) (hr : s.pins.rst = false) :
    step s = .fault .illegalState := by
  rw [step_run hr, cycleAction_illegal h]
  rfl

/-! #### The phase that each state action leads to -/

theorem openInClosed_phase (rev : Revision) (s : State) :
    (openInClosed rev s).phase = .idle ∨ (openInClosed rev s).phase = s.phase := by
  rcases openInClosed_cases rev s with ⟨_, he⟩ | ⟨_, he⟩ <;> rw [he]
  · exact .inl rfl
  · exact .inr rfl

theorem txStep_phase (s : State) : (txStep s).phase = .settle ∨ (txStep s).phase = s.phase := by
  rcases txStep_cases s with ⟨_, he⟩ | ⟨_, _, he⟩ | ⟨_, _, he⟩ <;> rw [he]
  · exact .inr rfl
  · exact .inl rfl
  · exact .inr rfl

theorem settleStep_phase (s : State) : (settleStep s).phase = .rx ∨ (settleStep s).phase = s.phase := by
  rcases settleStep_cases s with ⟨_, he⟩ | ⟨_, he⟩ <;> rw [he]
  · exact .inl rfl
  · exact .inr rfl

theorem rxAdvance_phase (popped : Bool) (got : BitVec 5) (s : State) :
    (rxAdvance popped got s).phase = .idle ∨ (rxAdvance popped got s).phase = s.phase := by
  rcases rxAdvance_cases popped got s with ⟨_, _, he⟩ | ⟨_, _, he⟩ | ⟨_, _, he⟩ <;> rw [he]
  · exact .inl rfl
  · exact .inl rfl
  · exact .inr rfl

theorem rxStep_phase (s : State) : (rxStep s).phase = .idle ∨ (rxStep s).phase = s.phase := by
  cases hf : s.fifo with
  | nil => rw [rxStep_nil hf]; exact rxAdvance_phase _ _ s
  | cons b rest => rw [rxStep_cons hf]; exact rxAdvance_phase _ _ _

/-! #### No next state is illegal -/

theorem cycleAction_next_phase_ne_illegal {s u : State} (h : cycleAction s = .next u) : u.phase ≠ .illegal := by
  rcases cycleAction_cases h with ⟨hp, hu⟩ | ⟨hp, hu⟩ | ⟨hp, rfl⟩ | ⟨hp, rfl⟩ | ⟨hp, rfl⟩
  case inl =>
    rcases hu with rfl | rfl | ⟨rev, rfl⟩ | rfl
    · simp [hp]
    · simp [hp]
    · rcases openInClosed_phase rev s with he | he <;> simp [he, hp]
    · simp [exchangeInClosed, hp]
  case inr.inl =>
    rcases hu with rfl | ⟨reason, rfl⟩ | ⟨d, op, plen, p, _, _, rfl⟩
    · simp [hp]
    · simp [hp]
    · simp
  case inr.inr.inl => rcases txStep_phase s with he | he <;> simp [he, hp]
  case inr.inr.inr.inl => rcases settleStep_phase s with he | he <;> simp [he, hp]
  case inr.inr.inr.inr => rcases rxStep_phase s with he | he <;> simp [he, hp]

/-- Whatever state an edge starts in, a next state that it has is legal: from an illegal one, only reset leads on. -/
theorem step_next_phase_ne_illegal {s t : State} (h : step s = .next t) : t.phase ≠ .illegal := by
  rcases step_cases h with ⟨_, rfl⟩ | ⟨_, u, hu, rfl⟩
  · simp
  · rw [finishCycle_phase]
    exact cycleAction_next_phase_ne_illegal hu

/-- Settles O33: `exec` and `step` both fault by the phase alone, and every next state of an edge is legal. -/
theorem illegalStateFaults : Obligations.IllegalStateFaults := by
  refine ⟨fun i s h => ?_, fun s h hr => ?_, fun s t _ h => ?_, ?_⟩
  · exact exec_illegal i (phase_eq_illegal_iff.mpr h)
  · exact step_illegal (phase_eq_illegal_iff.mpr h) hr
  · exact phase_ne_illegal_iff.mp (step_next_phase_ne_illegal h)
  · decide

end Sys2Proof.Machine

/-! ### The status sentinels are no opcodes (R62) -/

namespace Sys2Proof.Machine

/-! #### The registry and the refused EXCHANGE -/

theorem sentinel_iff {op : Byte} : op = 0xFE#8 ∨ op = 0xFF#8 ↔ 0xFE ≤ op.toNat := by
  bv_omega

theorem registry_sentinel (ps : Params) (rev : Revision) {op : Byte} (h : 0xFE ≤ op.toNat) :
    registry ps rev op = none := by
  cases hr : registry ps rev op with
  | none => rfl
  | some d =>
    obtain ⟨_, _, hlt, _⟩ := registry_some hr
    omega

theorem exec_exchange_idle (op : Byte) (plen : BitVec 4) (p : Payload) {s : State} (h : s.phase = .idle) :
    exec (.exchange op plen p) s = .next (exchangeInIdle op plen p s) := by
  simp [exec, execExchange, commonExchange, h]

theorem exchangeInIdle_unassigned {op : Byte} {s : State} (plen : BitVec 4) (p : Payload)
    (h : registry s.params s.rev op = none) : exchangeInIdle op plen p s = raiseCmdFault .unknownCommand s := by
  simp [exchangeInIdle, h]

/-! #### The opcode of the frame in flight -/

theorem encodeFrame_opcode (op : Byte) (p : List Byte) (k : Nat) : (encodeFrame op p k).getD 3 0#8 = op := rfl

theorem frameIsFor_opcode {op : Byte} {buf : Vector Byte 18} (h : frameIsFor op buf = true) :
    buf.toList.getD 3 0#8 = op := by
  rw [of_decide_eq_true h, encodeFrame_opcode]

theorem State.Inv.opcode_assigned {s : State} (hi : s.Inv) (hb : s.busy = true) :
    ∃ d, registry s.params s.rev s.lat.op = some d := by
  obtain ⟨d, hd, _⟩ := Option.map_eq_some_iff.mp (hi.descriptor hb)
  exact ⟨d, hd⟩

theorem State.Inv.sent_opcode_lt {s : State} (hi : s.Inv) (hb : s.busy = true) :
    (s.txBuf.toList.getD 3 0#8).toNat < 0xFE := by
  obtain ⟨d, hd⟩ := hi.opcode_assigned hb
  obtain ⟨_, _, hlt, _⟩ := registry_some hd
  rwa [frameIsFor_opcode (hi.frame hb)]

/-- Settles O19: a registry row's opcode is below 0xFE (R62), and the frame in flight has the opcode of such a row. -/
theorem sentinelsAreNoOpcodes : Obligations.SentinelsAreNoOpcodes := by
  refine ⟨fun ps rev op h => ?_, fun s op plen p h hp => ?_, fun s hi hb => ?_⟩
  · exact registry_sentinel ps rev (sentinel_iff.mp h)
  · rw [exec_exchange_idle op plen p hp, exchangeInIdle_unassigned plen p (registry_sentinel _ _ (sentinel_iff.mp h))]
    rfl
  · have hlt := hi.sent_opcode_lt hb
    exact not_or.mp (mt sentinel_iff.mp (by omega))

end Sys2Proof.Machine

/-! ### The Command Registry (R69, R72) -/

namespace Sys2Proof.Machine

/-! #### Every row fits its frame -/

theorem registryRowOk_fits {r : RegistryRow} (h : registryRowOk r = true) :
    r.desc.len.toNat + 5 ≤ (responseLength r.desc.variant).toNat := by
  simp only [registryRowOk, Bool.and_eq_true, decide_eq_true_eq] at h
  obtain ⟨⟨⟨hfits, _⟩, _⟩, _⟩ := h
  exact hfits

/-- `registryOk` looks at every row, also at one that an earlier row hides from every lookup. -/
theorem registryRowOk_of_mem {ps : Params} {r : RegistryRow} (h : r ∈ ps.registry) : registryRowOk r = true := by
  have hok := ps.registry_ok
  simp only [registryOk, Bool.and_eq_true, List.all_eq_true] at hok
  obtain ⟨⟨⟨hrows, _⟩, _⟩, _⟩ := hok
  exact hrows r h

/-- Settles O16: `Params` carries the check of every row (R69), and a lookup answers a row's descriptor. -/
theorem registryFitsFrames : Obligations.RegistryFitsFrames := by
  constructor
  · intro ps rev op d h
    obtain ⟨hfits, _⟩ := registry_some h
    omega
  · rintro rows ⟨r, hr, hlong⟩ ⟨ps, rfl⟩
    have hfits := registryRowOk_fits (registryRowOk_of_mem hr)
    omega

/-! #### The rows of the default registry -/

theorem registryLookup_ne_none_iff {rows : List RegistryRow} {rev : Revision} {op : Byte} :
    registryLookup rows rev op ≠ none ↔ ∃ r ∈ rows, r.rev = rev ∧ r.desc.opcode = op := by
  constructor
  · intro h
    obtain ⟨d, hd⟩ := Option.ne_none_iff_exists'.mp h
    obtain ⟨r, hr, hrev, rfl, hop⟩ := registryLookup_mem hd
    exact ⟨r, hr, hrev, hop⟩
  · rintro ⟨r, hr, hrev, hop⟩ hnone
    unfold registryLookup at hnone
    split at hnone
    · cases hnone
    · next hfind => simpa [hrev, hop] using List.find?_eq_none.mp hfind r hr

theorem mem_defaultRegistry_iff {extLen : Vector (Fin 2) 9} {r : RegistryRow} :
    r ∈ defaultRegistry extLen ↔
      r.desc ∈ legacyRows ∨
        r.rev = .extended ∧ ∃ x ∈ extOpcodes.zip extLen.toList, r.desc = extRow x.1 x.2 := by
  obtain ⟨rev, d⟩ := r
  cases rev <;> simp [defaultRegistry, eq_comm]

theorem exists_legacyRow_iff {op : Byte} : (∃ d ∈ legacyRows, d.opcode = op) ↔ op.toNat ≤ 11 := by
  simp only [legacyRows, echoRow, serialRow, fixedRows, List.exists_mem_cons_iff, List.not_mem_nil, false_and,
    exists_false, or_false]
  bv_omega

theorem extOpcodes_getElem_toNat : ∀ (i : Nat) (h : i < extOpcodes.length), extOpcodes[i].toNat = 12 + i := by
  decide

/-- The opcode `12 + i` stands beside the entry of `EXT_LEN` at index `i`. -/
theorem mem_extOpcodes_zip_iff {extLen : Vector (Fin 2) 9} {op : Byte} {l : Fin 2} :
    (op, l) ∈ extOpcodes.zip extLen.toList ↔
      (12 ≤ op.toNat ∧ op.toNat ≤ 20) ∧ l = extLen.toList.getD (op.toNat - 12) 0 := by
  have hlen : extOpcodes.length = 9 := rfl
  have hlen' : extLen.toList.length = 9 := extLen.length_toList
  rw [List.mem_iff_getElem]
  constructor
  · rintro ⟨i, hi, he⟩
    have hi9 : i < 9 := by simpa [hlen] using hi
    rw [List.getElem_zip, Prod.mk.injEq] at he
    obtain ⟨rfl, rfl⟩ := he
    rw [extOpcodes_getElem_toNat, Nat.add_sub_cancel_left, List.getD_eq_getElem _ _ (hi9.trans_eq hlen'.symm)]
    exact ⟨by omega, rfl⟩
  · rintro ⟨⟨hlo, hhi⟩, rfl⟩
    have hi : op.toNat - 12 < extOpcodes.length := by omega
    have hop : extOpcodes[op.toNat - 12] = op := by
      apply BitVec.eq_of_toNat_eq
      rw [extOpcodes_getElem_toNat]
      omega
    refine ⟨op.toNat - 12, by rw [List.length_zip]; omega, ?_⟩
    rw [List.getElem_zip, hop, List.getD_eq_getElem]

theorem exists_extRow_iff {extLen : Vector (Fin 2) 9} {op : Byte} :
    (∃ x ∈ extOpcodes.zip extLen.toList, x.1 = op) ↔ 12 ≤ op.toNat ∧ op.toNat ≤ 20 := by
  constructor
  · rintro ⟨⟨_, l⟩, hx, rfl⟩
    exact (mem_extOpcodes_zip_iff.mp hx).1
  · intro h
    exact ⟨(op, _), mem_extOpcodes_zip_iff.mpr ⟨h, rfl⟩, rfl⟩

/-! #### What each revision assigns -/

theorem defaultRegistry_legacy_assigned_iff (extLen : Vector (Fin 2) 9) (op : Byte) :
    registryLookup (defaultRegistry extLen) .legacy op ≠ none ↔ op.toNat ≤ 11 := by
  rw [registryLookup_ne_none_iff, ← exists_legacyRow_iff]
  constructor
  · rintro ⟨⟨_, d⟩, hr, rfl, hop⟩
    rcases mem_defaultRegistry_iff.mp hr with hd | ⟨hrev, _⟩
    · exact ⟨d, hd, hop⟩
    · cases hrev
  · rintro ⟨d, hd, hop⟩
    exact ⟨⟨.legacy, d⟩, mem_defaultRegistry_iff.mpr (.inl hd), rfl, hop⟩

theorem defaultRegistry_extended_assigned_iff (extLen : Vector (Fin 2) 9) (op : Byte) :
    registryLookup (defaultRegistry extLen) .extended op ≠ none ↔ op.toNat ≤ 20 := by
  have hsplit : op.toNat ≤ 20 ↔ op.toNat ≤ 11 ∨ 12 ≤ op.toNat ∧ op.toNat ≤ 20 := by omega
  rw [registryLookup_ne_none_iff, hsplit, ← exists_legacyRow_iff, ← exists_extRow_iff (extLen := extLen)]
  constructor
  · rintro ⟨⟨_, d⟩, hr, rfl, hop⟩
    rcases mem_defaultRegistry_iff.mp hr with hd | ⟨_, x, hx, rfl⟩
    · exact .inl ⟨d, hd, hop⟩
    · exact .inr ⟨x, hx, hop⟩
  · rintro (⟨d, hd, hop⟩ | ⟨x, hx, hop⟩)
    · exact ⟨⟨.extended, d⟩, mem_defaultRegistry_iff.mpr (.inl hd), rfl, hop⟩
    · exact ⟨⟨.extended, extRow x.1 x.2⟩, mem_defaultRegistry_iff.mpr (.inr ⟨rfl, x, hx, rfl⟩), rfl, hop⟩

theorem defaultRegistry_extended_row {extLen : Vector (Fin 2) 9} {op : Byte} {d : Descriptor} (hop : 12 ≤ op.toNat)
    (h : registryLookup (defaultRegistry extLen) .extended op = some d) :
    d = extRow op (extLen.toList.getD (op.toNat - 12) 0) := by
  obtain ⟨r, hr, _, rfl, rfl⟩ := registryLookup_mem h
  rcases mem_defaultRegistry_iff.mp hr with hd | ⟨_, ⟨op', l⟩, hx, hd⟩
  · have hle := exists_legacyRow_iff.mp ⟨_, hd, rfl⟩
    omega
  · obtain ⟨_, rfl⟩ := mem_extOpcodes_zip_iff.mp hx
    rw [hd]
    rfl

/-- Settles O17: an opcode is assigned where a row names it, the table's rows in both revisions and the rows of `EXT_LEN` in
the extended one (R72). -/
theorem defaultRegistryRevisions : Obligations.DefaultRegistryRevisions := fun extLen op =>
  ⟨defaultRegistry_legacy_assigned_iff extLen op, defaultRegistry_extended_assigned_iff extLen op,
    fun hop _ h => defaultRegistry_extended_row hop h⟩

end Sys2Proof.Machine

/-! ### The checksum and the outbound frame (R54, R98, R99, R101) -/

namespace Sys2Proof.Machine

/-! #### LRC-8 and the sum of the bytes -/

theorem lrc8_toNat (s : List Byte) : (lrc8 s).toNat = (256 - byteSum s % 256) % 256 := by
  rw [lrc8, BitVec.toNat_ofNat]
  omega

/-- The accumulator without carry is the sum of the bytes modulo 256. -/
theorem foldl_add_toNat (s : List Byte) (acc : Byte) :
    (s.foldl (fun acc b => acc + b) acc).toNat = (acc.toNat + byteSum s) % 256 := by
  induction s generalizing acc with
  | nil => exact (Nat.mod_eq_of_lt acc.isLt).symm
  | cons b s ih =>
    rw [List.foldl_cons, ih, BitVec.toNat_add, byteSum]
    omega

/-- Complement and increment are the two's-complement negation. -/
theorem xor_FF_add_one (x : Byte) : (x ^^^ 0xFF#8) + 1#8 = -x := by
  rw [show 0xFF#8 = BitVec.allOnes 8 from rfl, BitVec.xor_allOnes, BitVec.neg_eq_not_add]

theorem lrc8Acc_eq_lrc8 (s : List Byte) : lrc8Acc s = lrc8 s := by
  apply BitVec.eq_of_toNat_eq
  rw [lrc8Acc, xor_FF_add_one, BitVec.toNat_neg, foldl_add_toNat, lrc8_toNat]
  simp

/-- A byte is the checksum of a sequence exactly when it closes the sum (R99). -/
theorem lrc8_eq_iff {s : List Byte} {c : Byte} : lrc8 s = c ↔ (byteSum s + c.toNat) % 256 = 0 := by
  have hc := c.isLt
  rw [← BitVec.toNat_inj, lrc8_toNat]
  omega

/-- Settles O6: both residues are the value of `lrc8_toNat`, and the accumulator adds modulo 256 and negates. -/
theorem lrcFormsAgree : Obligations.LrcFormsAgree := by
  intro s
  have hval := lrc8_toNat s
  exact ⟨by omega, hval, lrc8Acc_eq_lrc8 s⟩

/-! #### Slices of a frame -/

theorem slice_succ_right {s : List Byte} {a b : Nat} (hab : a ≤ b + 1) (hb : b + 1 < s.length) :
    slice s a (b + 1) = slice s a b ++ [s.getD (b + 1) 0#8] := by
  have hlen : b + 1 + 1 - a = b + 1 - a + 1 := by omega
  have hidx : a + (b + 1 - a) = b + 1 := by omega
  rw [slice, hlen, List.take_add_one, List.getElem?_drop, hidx, List.getD_eq_getElem _ _ hb,
    List.getElem?_eq_getElem hb]
  rfl

theorem slice_append_of_lt {l : List Byte} {a b : Nat} (r : List Byte) (hab : a ≤ b + 1) (hb : b < l.length) :
    slice (l ++ r) a b = slice l a b := by
  rw [slice, slice, List.drop_append_of_le_length (by omega),
    List.take_append_of_le_length (by rw [List.length_drop]; omega)]

/-- Settles O7: the bytes 2..n-1 are the covered bytes and the checksum byte, and `lrc8_eq_iff` says when they close. -/
theorem lrcClosesTheSum : Obligations.LrcClosesTheSum := by
  refine ⟨fun s => lrc8_eq_iff.mp rfl, fun f hf => ?_⟩
  have hlast : f.length - 1 = f.length - 2 + 1 := by omega
  have hsplit : slice f 2 (f.length - 1) = slice f 2 (f.length - 2) ++ [f.getD (f.length - 1) 0#8] := by
    rw [hlast, slice_succ_right (by omega) (by omega)]
  rw [lrc8_eq_iff, hsplit, byteSum_append]
  rfl

/-! #### The layout of an outbound frame -/

theorem frameBody_of_length {p : List Byte} {k : Nat} (op : Byte) (hp : p.length = k) :
    frameBody op p k = [0xFF#8, 0xFE#8, 0x10#8, op] ++ (p ++ List.replicate (13 - k) 0#8) := by
  rw [frameBody, List.take_of_length_le hp.le, List.append_assoc]

theorem encodeFrame_payloadField {p : List Byte} {k : Nat} (op : Byte) (hk : k ≤ 13) (hp : p.length = k) :
    slice (encodeFrame op p k) 4 16 = p ++ List.replicate (13 - k) 0#8 := by
  have hlen : (p ++ List.replicate (13 - k) 0#8).length = 13 := by
    rw [List.length_append, List.length_replicate]
    omega
  have hbody := frameBody_length op hk hp.ge
  rw [encodeFrame, slice_append_of_lt _ (by omega) (by omega), frameBody_of_length op hp]
  exact List.take_of_length_le hlen.le

theorem encodeFrame_checksum {p : List Byte} {k : Nat} (op : Byte) (hk : k ≤ 13) (hp : k ≤ p.length) :
    (encodeFrame op p k).getD 17 0#8 = lrc8 (slice (encodeFrame op p k) 2 16) := by
  have hbody := frameBody_length op hk hp
  have hcovered : slice (encodeFrame op p k) 2 16 = slice (frameBody op p k) 2 16 :=
    slice_append_of_lt _ (by omega) (by omega)
  rw [hcovered, encodeFrame, List.getD_append_right _ _ _ _ hbody.le, hbody]
  rfl

/-- Settles O9: the first four bytes are written out in `frameBody`; the payload field and the checksum have their lemmas. -/
theorem encodeFrameLayout : Obligations.EncodeFrameLayout := by
  intro op p k hk hp
  exact ⟨encodeFrame_length op hk hp.ge, rfl, rfl, rfl, encodeFrame_opcode op p k,
    encodeFrame_payloadField op hk hp, encodeFrame_checksum op hk hp.ge⟩

end Sys2Proof.Machine

/-! ### The cycles of TX (R103, R104) -/

namespace Sys2Proof.Machine

/-! #### One cycle -/

theorem txValid_tx {s : State} (h : s.phase = .tx) : txValid s = true := by
  simp [txValid, h]

theorem txData_tx {s : State} (h : s.phase = .tx) : txData s = s.txBuf.toList.getD s.txIdx.toNat 0#8 := by
  simp [txData, h]

theorem cmdReady_tx {s : State} (h : s.phase = .tx) : cmdReady s = false := by
  simp [cmdReady, h]

theorem exec_tx (i : Instr) {s : State} (h : s.phase = .tx) : exec i s = .next (txStep s) := by
  rw [exec_busy (busy_iff.mpr (.inl h)), exchangeCycle_tx h]

/-- Settles O28: in TX every instruction's cycle is `txStep` (R120), which is R103's cycle. -/
theorem transmitCycle : Obligations.TransmitCycle :=
  fun i _ h => ⟨txValid_tx h, txData_tx h, exec_tx i h⟩

/-! #### A transmitter that takes nothing -/

theorem sentNow_of_not_ready {s : State} (h : s.pins.txReady = false) : sentNow s = none := by
  simp [sentNow, h]

theorem sentIn_succ {s t : State} (n : Nat) (h : step s = .next t) :
    sentIn (n + 1) s = (sentNow s).toList ++ sentIn n t := by
  rw [sentIn, h]

theorem txStep_of_not_ready {s : State} (h : s.pins.txReady = false) : txStep s = s := by
  simp [txStep, h]

/-- An edge on which the transmitter takes nothing: only the line side and the inputs move on. -/
theorem step_tx_of_not_ready {s : State} (h : s.phase = .tx) (hr : s.pins.rst = false)
    (hn : s.pins.txReady = false) : step s = .next (finishCycle s s) := by
  rw [step_tx h hr, txStep_of_not_ready hn]

/-- The registers of TX along edges on which the transmitter takes nothing (R104). -/
theorem runFor_tx_of_not_ready (n : Nat) {s : State} (h : s.phase = .tx) (hr : NoReset n s)
    (hn : ∀ j, j < n → (State.pinsAt j s).txReady = false) :
    sentIn n s = [] ∧
      ∃ t, runFor n s = .next t ∧ t.phase = .tx ∧ t.txIdx = s.txIdx ∧ t.txBuf = s.txBuf ∧ t.res = s.res := by
  induction n generalizing s with
  | zero => exact ⟨rfl, s, runFor_zero s, h, rfl, rfl, rfl⟩
  | succ n ih =>
    have hn0 : s.pins.txReady = false := hn 0 n.succ_pos
    have hstep := step_tx_of_not_ready h (hr 0 n.succ_pos) hn0
    have hpins : ∀ j, State.pinsAt j (finishCycle s s) = State.pinsAt (j + 1) s := pinsAt_finishCycle rfl rfl rfl
    obtain ⟨hsent, t, hrun, hphase, hidx, hbuf, hres⟩ := ih (s := finishCycle s s) (by simpa using h)
      (fun j hj => by rw [hpins]; exact hr (j + 1) (by omega)) (fun j hj => by rw [hpins]; exact hn (j + 1) (by omega))
    refine ⟨?_, t, ?_, hphase, ?_, ?_, ?_⟩
    · rw [sentIn_succ n hstep, sentNow_of_not_ready hn0, hsent]
      rfl
    · rw [runFor_succ n hstep, hrun]
    · rw [hidx, finishCycle_txIdx]
    · rw [hbuf, finishCycle_txBuf]
    · rw [hres, finishCycle_res]

/-- Settles O49, by induction on the number of edges; the outputs are functions of the registers that stay (R105). -/
theorem transmitStall : Obligations.TransmitStall := by
  intro n s h hr hn
  obtain ⟨hsent, t, hrun, hphase, hidx, hbuf, hres⟩ := runFor_tx_of_not_ready n h hr hn
  have hdata : txData t = txData s := by rw [txData_tx hphase, txData_tx h, hbuf, hidx]
  exact ⟨hsent, t, hrun, hphase, hidx, hbuf, hres, cmdReady_tx hphase, hdata⟩

end Sys2Proof.Machine

/-! ### DECODE's checks and their precedence (R106, R112, R117, R118) -/

namespace Sys2Proof.Machine

/-! #### Each answer of DECODE -/

theorem ne_sentinel_of_le {st : Byte} (h : st.toNat ≤ 0xFD) : st ≠ 0xFE#8 ∧ st ≠ 0xFF#8 :=
  not_or.mp (mt sentinel_iff.mp (by omega))

theorem decodeStatus_FE (payload : List Byte) :
    decodeStatus 0xFE#8 payload =
      { code := .errorChecksumOnSend, statusValid := true, status := 0xFE#8, payloadValid := false, payload := [] } :=
  rfl

theorem decodeStatus_FF (payload : List Byte) :
    decodeStatus 0xFF#8 payload =
      { code := .errorGeneric, statusValid := true, status := 0xFF#8, payloadValid := true, payload := payload } :=
  rfl

theorem decodeStatus_of_le {st : Byte} (payload : List Byte) (h : st.toNat ≤ 0xFD) :
    decodeStatus st payload =
      { code := .success, statusValid := true, status := st, payloadValid := true, payload := payload } := by
  obtain ⟨hFE, hFF⟩ := ne_sentinel_of_le h
  rw [decodeStatus, if_neg hFE, if_neg hFF]

theorem decodeResponse_of_valid {raw : List Byte} {n : Nat} (l : Nat) (hlen : raw.length = n)
    (hsum : lrc8 (slice raw 2 (n - 2)) = raw.getD (n - 1) 0#8) :
    decodeResponse raw n l = decodeStatus (raw.getD 3 0#8) ((raw.drop 4).take l) := by
  rw [decodeResponse, if_neg (not_not.mpr hlen), if_neg (not_not.mpr hsum)]

/-- The first check of R112 that decides a frame, and the code it gives. -/
theorem decodeResponse_code_cases (raw : List Byte) (n l : Nat) :
    (raw.length ≠ n ∧ (decodeResponse raw n l).code = .errorTimeout) ∨
    (raw.length = n ∧ lrc8 (slice raw 2 (n - 2)) ≠ raw.getD (n - 1) 0#8 ∧
      (decodeResponse raw n l).code = .errorChecksumOnReceive) ∨
    (raw.length = n ∧ lrc8 (slice raw 2 (n - 2)) = raw.getD (n - 1) 0#8 ∧
      (raw.getD 3 0#8 = 0xFE#8 ∧ (decodeResponse raw n l).code = .errorChecksumOnSend ∨
       raw.getD 3 0#8 = 0xFF#8 ∧ (decodeResponse raw n l).code = .errorGeneric ∨
       (raw.getD 3 0#8).toNat ≤ 0xFD ∧ (decodeResponse raw n l).code = .success)) := by
  rcases decodeResponse_cases raw n l with ⟨hlen, he⟩ | ⟨hlen, hsum, he⟩ | ⟨hlen, hsum, he⟩ <;> rw [he]
  · exact .inl ⟨hlen, rfl⟩
  · exact .inr (.inl ⟨hlen, hsum, rfl⟩)
  · refine .inr (.inr ⟨hlen, hsum, ?_⟩)
    by_cases hst : (raw.getD 3 0#8).toNat ≤ 0xFD
    · exact .inr (.inr ⟨hst, by rw [decodeStatus_of_le _ hst]⟩)
    · rcases sentinel_iff.mpr (show 0xFE ≤ (raw.getD 3 0#8).toNat by omega) with hFE | hFF
      · exact .inl ⟨hFE, by rw [hFE, decodeStatus_FE]⟩
      · exact .inr (.inl ⟨hFF, by rw [hFF, decodeStatus_FF]⟩)

/-- Settles O12: the five cases of `decodeResponse_code_cases` have five codes, and their conditions exclude each other. -/
theorem responsePrecedence : Obligations.ResponsePrecedence := by
  intro raw n l
  rcases decodeResponse_code_cases raw n l with
    ⟨hlen, hcode⟩ | ⟨hlen, hsum, hcode⟩ | ⟨hlen, hsum, ⟨hst, hcode⟩ | ⟨hst, hcode⟩ | ⟨hst, hcode⟩⟩
  case inl => simp [hcode, hlen]
  case inr.inl => simp [hcode, hlen, hsum, -List.getD_eq_getElem?_getD]
  case inr.inr.inl => simp [hcode, hlen, hsum, hst, -List.getD_eq_getElem?_getD]
  case inr.inr.inr.inl => simp [hcode, hlen, hsum, hst, -List.getD_eq_getElem?_getD]
  case inr.inr.inr.inr =>
    obtain ⟨hFE, hFF⟩ := ne_sentinel_of_le hst
    simp [hcode, hlen, hsum, hst, hFE, hFF, -List.getD_eq_getElem?_getD]

/-- Settles O11: the code's condition is that of `responsePrecedence`, and by R99 the checksum is right exactly when the
covered sum closes to 0. -/
theorem checksumVerdict : Obligations.ChecksumVerdict := by
  intro raw n l hn
  obtain ⟨_, hreceive, _⟩ := responsePrecedence raw n l
  constructor
  · intro hsum hcode
    obtain ⟨_, hwrong⟩ := hreceive.mp hcode
    exact hwrong hsum
  · rintro rfl hopen
    obtain ⟨_, hcloses⟩ := lrcClosesTheSum
    exact hreceive.mpr ⟨rfl, mt (hcloses raw hn).mp hopen⟩

/-! #### An encoded frame as a response -/

theorem encodeFrame_payload_take (op : Byte) (p : Payload) {l : Nat} (hl : l ≤ 13) :
    ((encodeFrame op p.toList 13).drop 4).take l = p.toList.take l := by
  have hfield : ((encodeFrame op p.toList 13).drop 4).take 13 = p.toList := by
    simpa [slice] using encodeFrame_payloadField op le_rfl p.length_toList
  rw [← hfield, List.take_take, min_eq_left hl, hfield]

/-- An encoded frame passes the checks of length and checksum; its opcode stands where a response has its status. -/
theorem decodeResponse_encodeFrame (op : Byte) (p : Payload) {l : Nat} (hl : l ≤ 13) :
    decodeResponse (encodeFrame op p.toList 13) 18 l = decodeStatus op (p.toList.take l) := by
  have hp : 13 ≤ p.toList.length := p.length_toList.ge
  rw [decodeResponse_of_valid l (encodeFrame_length op le_rfl hp) (encodeFrame_checksum op le_rfl hp).symm,
    encodeFrame_opcode, encodeFrame_payload_take op p hl]

/-- Settles O10: the frame is valid, so its status byte alone decides, and a registry row's opcode is below 0xFE (R62). -/
theorem encodedFrameRoundTrip : Obligations.EncodedFrameRoundTrip := by
  refine ⟨fun op p l hl => ?_, fun ps rev op h => ?_⟩
  · rw [decodeResponse_encodeFrame op p hl]
    refine ⟨fun hop => decodeStatus_of_le _ hop, ?_, ?_⟩
    · rintro rfl
      exact decodeStatus_FF _
    · rintro rfl
      exact decodeStatus_FE _
  · obtain ⟨d, hd⟩ := Option.ne_none_iff_exists'.mp h
    obtain ⟨_, _, hlt, _⟩ := registry_some hd
    omega

end Sys2Proof.Machine

/-! ### Session and exchange: acceptance, the read cycle, completion (R122, R124, R127 to R131) -/

namespace Sys2Proof.Machine

/-! #### EXCHANGE accepted in IDLE -/

theorem exchangeInIdle_accepted {op : Byte} {plen : BitVec 4} {d : Descriptor} {s : State} (p : Payload)
    (hreg : registry s.params s.rev op = some d) (hplen : plen.toNat ≤ 13) :
    exchangeInIdle op plen p s = acceptExchange d op plen p s := by
  simp [exchangeInIdle, hreg, Nat.not_lt.mpr hplen]

theorem responseLength_eq_ite (v : Variant) : responseLength v = if v = .large then 28#5 else 10#5 := by
  cases v <;> rfl

/-- The frame fills `tx_buf` exactly: no byte of it is cut off and none is padded. -/
theorem acceptExchange_txBuf_toList (d : Descriptor) (op : Byte) {plen : BitVec 4} (p : Payload) (s : State)
    (hplen : plen.toNat ≤ 13) : (acceptExchange d op plen p s).txBuf.toList = encodeFrame op p.toList plen.toNat := by
  rw [acceptExchange_txBuf, bytesVec_toList]
  exact fit_of_length (encodeFrame_length op hplen (hplen.trans_eq p.length_toList.symm))

/-- Settles O22: the next state is `acceptExchange`'s, whose latched N is the variant's and whose `tx_buf` holds the frame. -/
theorem exchangeAccepted : Obligations.ExchangeAccepted := by
  intro op plen p d s hp hreg hplen
  refine ⟨acceptExchange d op plen p s, ?_, ?_, acceptExchange_txBuf_toList d op p s hplen⟩
  · rw [exec_exchange_idle op plen p hp, exchangeInIdle_accepted p hreg hplen]
  · rw [← responseLength_eq_ite]
    rfl

/-! #### What `complete` writes -/

theorem fit_getD {n i : Nat} (l : List Byte) (hi : i < n) : (fit n l).getD i 0#8 = l.getD i 0#8 := by
  simp only [fit, List.getD_eq_getElem?_getD, List.getElem?_take_of_lt hi, List.getElem?_append]
  split
  · rfl
  · next hl =>
    have hpad : i - l.length < n := by omega
    simp [List.getElem?_eq_none (Nat.not_lt.mp hl), hpad]

theorem resultOf_plen_toNat (code : ResultCode) {r : Response} (h : r.payload.length ≤ 23) :
    (resultOf code r).plen.toNat = if r.payloadValid then r.payload.length else 0 := by
  cases hv : r.payloadValid
  · simp [resultOf, hv]
  · simpa [resultOf, hv] using Nat.mod_eq_of_lt (show r.payload.length < 32 by omega)

theorem resultOf_payload_getD (code : ResultCode) (r : Response) {i : Nat} (hi : i < 23) :
    (resultOf code r).payload.toList.getD i 0#8 = r.payload.getD i 0#8 := by
  rw [resultOf, bytesVec_toList, fit_getD _ hi]

/-- Settles O15: `resultOf` copies the record's fields; its two numeric ones, the length and the payload bytes, have their
lemmas. -/
theorem completeWritesResult : Obligations.CompleteWritesResult := by
  intro code r s h
  refine ⟨rfl, rfl, rfl, rfl, rfl, rfl, resultOf_plen_toNat code h, fun i hi => ?_, rfl⟩
  rw [complete_res, resultOf_payload_getD code r hi]
  split
  · rfl
  · next hl => exact List.getD_eq_default _ _ (Nat.not_lt.mp hl)

/-! #### OPEN in CLOSED -/

theorem exec_openSession_closed (rev : Revision) {s : State} (h : s.phase = .closed) :
    exec (.openSession rev) s = .next (openInClosed rev s) := by
  simp [exec, execOpen, h]

/-- A bare record has no payload, so its completion leaves the payload registers at 0. -/
theorem resultOf_bare (code : ResultCode) :
    resultOf code (Response.bare code) =
      { valid := true, code := code, rawCode := code, statusValid := false, status := 0#8,
        payloadValid := false, plen := 0#5, payload := bytesVec 23 [] } := rfl

/-- Settles O20: the two branches of `openInClosed`, each with a bare record. -/
theorem openCompletes : Obligations.OpenCompletes := by
  intro rev s hp
  rw [exec_openSession_closed rev hp, ← resultOf_bare, ← resultOf_bare]
  rcases openInClosed_cases rev s with ⟨hlink, he⟩ | ⟨hlink, he⟩ <;> rw [he]
  · exact ⟨fun _ => rfl, fun hno => absurd hno (by simp [hlink])⟩
  · exact ⟨fun hyes => absurd hyes (by simp [hlink]), fun _ => rfl⟩

/-! #### One cycle in RX -/

theorem exec_rx (i : Instr) {s : State} (h : s.phase = .rx) : exec i s = .next (rxStep s) := by
  rw [exec_busy (busy_iff.mpr (.inr (.inr h))), exchangeCycle_rx h]

/-- Settles O30: after the pop, completion is tested before the window's end (R131), as `rxAdvance_cases` lists them. -/
theorem readCycleWithByte : Obligations.ReadCycleWithByte := by
  intro i s b rest hp hf
  rw [exec_rx i hp, rxStep_cons hf]
  rcases rxAdvance_cases true (s.rxCnt + 1#5)
      { s with fifo := rest, rxBuf := s.rxBuf.setIfInBounds s.rxCnt.toNat b } with
    ⟨_, hfull, he⟩ | ⟨hmore, hlast, he⟩ | ⟨hmore, hlast, he⟩ <;> rw [he]
  case inl => rw [if_pos hfull, frameComplete_eq]
  case inr.inl => rw [if_neg (fun h => hmore ⟨rfl, h⟩), if_pos hlast, readTimeout_eq]
  case inr.inr => rw [if_neg (fun h => hmore ⟨rfl, h⟩), if_neg hlast]

end Sys2Proof.Machine

/-! ### Little-endian numbers in a payload (R139, R140) -/

namespace Sys2Proof.Machine

@[simp] theorem le32bytes_length (v : Nat) : (le32bytes v).length = 4 := leBytes_length 4 v

/-- `le32` undoes `le32bytes` at offset 0, whatever bytes follow (R140). -/
theorem le32_le32bytes_append {v : Nat} (hv : v < 2 ^ 32) (rest : List Byte) : le32 (le32bytes v ++ rest) 0 = some v := by
  have hfour : 0 + 4 ≤ (le32bytes v ++ rest).length := by simp
  have hfirst : ((le32bytes v ++ rest).drop 0).take 4 = le32bytes v := List.take_left' (le32bytes_length v)
  have hvalue : leNat (le32bytes v) = v := (leNat_leBytes 4 v).trans (Nat.mod_eq_of_lt hv)
  rw [le32, if_pos hfour, hfirst, hvalue]

theorem le32_le32bytes {v : Nat} (hv : v < 2 ^ 32) : le32 (le32bytes v) 0 = some v := by
  simpa using le32_le32bytes_append hv []

/-- The payload of SET_FREQ: the value's four bytes and nine zeros (R66, R140). -/
theorem bytesVec_le32bytes_toList (v : Nat) :
    (bytesVec 13 (le32bytes v)).toList = le32bytes v ++ List.replicate 9 0#8 := by
  rw [bytesVec_toList, fit_of_le (by simp), le32bytes_length]

/-- Settles O58: the payload is `le32bytes v` and its padding, so its number and its rest are read off the append. -/
theorem kilohertzRoundTrip : Obligations.KilohertzRoundTrip := by
  intro v hv
  have hcmd := pseudoSetFreq_of_lt hv
  refine ⟨le32_le32bytes hv, bytesVec 13 (le32bytes v), hcmd,
    fun _ => commandOf_setFreq (checkFrequency_ofNat hv) hcmd, ?_, ?_⟩ <;> rw [bytesVec_le32bytes_toList]
  · exact le32_le32bytes_append hv _
  · exact List.drop_left' (le32bytes_length v)

end Sys2Proof.Machine

/-! ### Words and frames: decoding undoes encoding (R52, R53, R59 to R61) -/

namespace Sys2Proof

open Sys2Proof.Machine

/-! #### Host command words -/

theorem hostBytes_ofNat {w : Nat} (h : w < 2 ^ 119) : hostBytes (BitVec.ofNat 119 w) = leBytes 15 w := by
  rw [hostBytes, BitVec.toNat_ofNat, Nat.mod_eq_of_lt h]

theorem decode_leBytes {w : Nat} (h : w < 2 ^ 119) : decode (leBytes 15 w) = decodeHostNat w := by
  rw [← hostBytes_ofNat h, decode_hostBytes, BitVec.toNat_ofNat, Nat.mod_eq_of_lt h]

theorem decodeHostNat_open {w : Nat} (h : w % 4 = 0) :
    decodeHostNat w = .ok (.openSession (Revision.ofBit (w / 4))) := by
  simp [decodeHostNat, h]

theorem decodeHostNat_exchange {w : Nat} (h : w % 4 = 1) :
    decodeHostNat w = .ok (.exchange (BitVec.ofNat 8 (w / 8)) (BitVec.ofNat 4 (w / 2048))
      (bytesVec 13 (leBytes 13 (w / 32768)))) := by
  simp [decodeHostNat, h]

theorem decodeHostNat_reserved {w : Nat} (h : w % 4 = 2 ∨ w % 4 = 3) : decodeHostNat w = .error .reservedKind := by
  rcases h with h | h <;> simp [decodeHostNat, h]

theorem decode_encode_openSession (rev : Revision) : decode (encode (.openSession rev)) = .ok (.openSession rev) := by
  cases rev <;> rfl

theorem decode_encode_exchange (op : Byte) (plen : BitVec 4) (p : Payload) :
    decode (encode (.exchange op plen p)) = .ok (.exchange op plen p) := by
  have hop := op.isLt
  have hplen := plen.isLt
  have hp := leNat_lt p.toList
  rw [Vector.length_toList] at hp
  have hpayload : leBytes 13 (leNat p.toList) = p.toList := by
    simpa using leBytes_leNat p.toList
  rw [encode, encodeHostNat, decode_leBytes (by omega), decodeHostNat_exchange (by omega)]
  congr 2
  · apply BitVec.eq_of_toNat_eq
    rw [BitVec.toNat_ofNat]
    omega
  · apply BitVec.eq_of_toNat_eq
    rw [BitVec.toNat_ofNat]
    omega
  · rw [show (1 + 4 * 0 + 8 * op.toNat + 2048 * plen.toNat + 32768 * leNat p.toList) / 32768 = leNat p.toList by omega,
      hpayload, bytesVec_of_toList]

/-! #### The rows of the frames -/

/-- What the table says of a row: its opcode, its bytes, and its meaning as the common exchange of that opcode (R60, R121). -/
theorem frameRow_some {op : Byte} {p : Payload} {i : Instr} (h : frameRow op p = some i) :
    op.toNat ≤ 20 ∧ encode i = encodeFrame op p.toList 13 ∧ ∀ s, exec i s = commonExchange op 13#4 p s := by
  unfold frameRow at h
  split at h
  case h_22 => cases h
  all_goals
    rename_i hop
    replace hop := congrArg (BitVec.ofNat 8) hop
    rw [BitVec.ofNat_toNat, BitVec.setWidth_eq] at hop
    subst hop
    injection h with h
    subst h
    exact ⟨by decide, rfl, fun _ => rfl⟩

theorem frameRow_isSome {op : Byte} (p : Payload) (h : op.toNat ≤ 20) : ∃ i, frameRow op p = some i := by
  unfold frameRow
  interval_cases op.toNat <;> exact ⟨_, rfl⟩

/-- Every instruction is a host command or the row of some opcode. -/
theorem instr_cases (i : Instr) :
    (∃ rev, i = .openSession rev) ∨ (∃ op plen p, i = .exchange op plen p) ∨
    (∃ op p, encode i = encodeFrame op p.toList 13 ∧ frameRow op p = some i) := by
  cases i with
  | openSession rev => exact .inl ⟨rev, rfl⟩
  | exchange op plen p => exact .inr (.inl ⟨op, plen, p, rfl⟩)
  | _ p => exact .inr (.inr ⟨_, p, rfl, rfl⟩)

/-! #### Frames -/

/-- The parts that the decoder reads from the 18 bytes of a frame, and the checksum byte. -/
theorem frame_parts {bs : List Byte} (h : bs.length = 18) :
    bs = slice bs 0 1 ++ bs.getD 2 0#8 :: bs.getD 3 0#8 :: (slice bs 4 16 ++ [bs.getD 17 0#8]) := by
  match bs, h with
  | [_, _, _, _, _, _, _, _, _, _, _, _, _, _, _, _, _, _], _ => rfl

theorem slice_payload_length {bs : List Byte} (h : bs.length = 18) : (slice bs 4 16).length = 13 := by
  rw [slice, List.length_take, List.length_drop]
  omega

theorem decode_frame {bs : List Byte} (h : bs.length = 18) : decode bs = decodeFrame bs := by
  rw [decode, if_neg (by omega), if_pos h]

theorem decodeFrame_badHeader {bs : List Byte} (h : slice bs 0 1 ≠ [0xFF#8, 0xFE#8]) :
    decodeFrame bs = .error .badHeader := by
  rw [decodeFrame, if_pos h]

theorem decodeFrame_badLengthByte {bs : List Byte} (hh : slice bs 0 1 = [0xFF#8, 0xFE#8])
    (hl : bs.getD 2 0#8 ≠ 0x10#8) : decodeFrame bs = .error .badLengthByte := by
  rw [decodeFrame, if_neg (not_not.mpr hh), if_pos hl]

/-- With the header and the length byte right, the opcode byte alone decides. -/
theorem decodeFrame_row {bs : List Byte} (hh : slice bs 0 1 = [0xFF#8, 0xFE#8]) (hl : bs.getD 2 0#8 = 0x10#8) :
    (∃ i, frameRow (bs.getD 3 0#8) (bytesVec 13 (slice bs 4 16)) = some i ∧ decodeFrame bs = .ok i) ∨
    (frameRow (bs.getD 3 0#8) (bytesVec 13 (slice bs 4 16)) = none ∧ decodeFrame bs = .error .unassignedOpcode) := by
  rw [decodeFrame, if_neg (not_not.mpr hh), if_neg (not_not.mpr hl)]
  cases frameRow (bs.getD 3 0#8) (bytesVec 13 (slice bs 4 16)) with
  | none => exact .inr ⟨rfl, rfl⟩
  | some i => exact .inl ⟨i, rfl, rfl⟩

theorem decodeFrame_ok {bs : List Byte} {i : Instr} (h : decodeFrame bs = .ok i) :
    slice bs 0 1 = [0xFF#8, 0xFE#8] ∧ bs.getD 2 0#8 = 0x10#8 ∧
      frameRow (bs.getD 3 0#8) (bytesVec 13 (slice bs 4 16)) = some i := by
  by_cases hh : slice bs 0 1 = [0xFF#8, 0xFE#8]
  · by_cases hl : bs.getD 2 0#8 = 0x10#8
    · rcases decodeFrame_row hh hl with ⟨j, hj, he⟩ | ⟨_, he⟩ <;> rw [he] at h <;> cases h
      exact ⟨hh, hl, hj⟩
    · rw [decodeFrame_badLengthByte hh hl] at h
      cases h
  · rw [decodeFrame_badHeader hh] at h
    cases h

theorem decode_encodeFrame {op : Byte} {p : Payload} {i : Instr} (h : frameRow op p = some i) :
    decode (encodeFrame op p.toList 13) = .ok i := by
  have hp := p.length_toList
  have hfield : slice (encodeFrame op p.toList 13) 4 16 = p.toList := by
    simpa using encodeFrame_payloadField op le_rfl hp
  rw [decode_frame (encodeFrame_length op le_rfl hp.ge)]
  rcases decodeFrame_row (bs := encodeFrame op p.toList 13) rfl rfl with ⟨j, hj, he⟩ | ⟨hj, he⟩ <;>
    rw [encodeFrame_opcode, hfield, bytesVec_of_toList, h] at hj <;> cases hj
  exact he

/-- Settles O1: a host command word by its kind, a frame by the row of its opcode. -/
theorem decodeOfEncode : Obligations.DecodeOfEncode := by
  intro i
  rcases instr_cases i with ⟨rev, rfl⟩ | ⟨op, plen, p, rfl⟩ | ⟨op, p, hbytes, hrow⟩
  · exact decode_encode_openSession rev
  · exact decode_encode_exchange op plen p
  · rw [hbytes]
    exact decode_encodeFrame hrow

/-- The 18 bytes of a frame whose header and length byte are right, with the encoding of its row's payload. -/
theorem encode_of_frameRow {bs : List Byte} {i : Instr} (hlen : bs.length = 18)
    (hrow : frameRow (bs.getD 3 0#8) (bytesVec 13 (slice bs 4 16)) = some i) :
    encode i = [0xFF#8, 0xFE#8] ++ 0x10#8 :: bs.getD 3 0#8 :: (slice bs 4 16
      ++ [lrc8 (0x10#8 :: bs.getD 3 0#8 :: slice bs 4 16)]) := by
  obtain ⟨_, hbytes, _⟩ := frameRow_some hrow
  rw [hbytes, encodeFrame_payload, bytesVec_toList, fit_of_length (slice_payload_length hlen)]
  rfl

/-- Settles O2: the decoder reads every byte of the frame but the checksum, which the hypothesis gives. -/
theorem encodeOfDecodedFrame : Obligations.EncodeOfDecodedFrame := by
  intro bs i hlen hsum h
  rw [decode_frame hlen] at h
  obtain ⟨hheader, hlength, hrow⟩ := decodeFrame_ok h
  have hcovered : slice bs 2 16 = bs.getD 2 0#8 :: bs.getD 3 0#8 :: slice bs 4 16 := by
    match bs, hlen with
    | [_, _, _, _, _, _, _, _, _, _, _, _, _, _, _, _, _, _], _ => rfl
  rw [encode_of_frameRow hlen hrow]
  conv_rhs => rw [frame_parts hlen, hheader, hsum, hcovered, hlength]

/-- Settles O4: the opcode byte decides whether there is a row, and a row's encoding copies the other 16 bytes. -/
theorem frameFieldsDecode : Obligations.FrameFieldsDecode := by
  intro bs hlen
  rw [decode_frame hlen]
  refine ⟨fun h => ?_, decodeFrame_badHeader, decodeFrame_badLengthByte⟩
  have hsplit : slice bs 0 2 = slice bs 0 1 ++ [bs.getD 2 0#8] := slice_succ_right (by omega) (by omega)
  rw [hsplit] at h
  obtain ⟨hheader, hlength⟩ := List.append_inj' (t₁ := [_]) (s₂ := [0xFF#8, 0xFE#8]) (t₂ := [0x10#8]) h rfl
  replace hlength : bs.getD 2 0#8 = 0x10#8 := List.singleton_injective hlength
  rcases decodeFrame_row hheader hlength with ⟨i, hrow, he⟩ | ⟨hrow, he⟩
  · obtain ⟨hle, _⟩ := frameRow_some hrow
    refine ⟨fun _ => ⟨i, he, ?_⟩, fun hgt => by omega⟩
    have hpay := slice_payload_length hlen
    rw [encode_of_frameRow hlen hrow]
    conv_rhs => rw [frame_parts hlen, hheader, hlength]
    simp [hpay]
  · refine ⟨fun hle => ?_, fun _ => he⟩
    obtain ⟨i, hi⟩ := frameRow_isSome (bytesVec 13 (slice bs 4 16)) hle
    rw [hi] at hrow
    cases hrow

/-! #### The fields of a host command word -/

theorem kind_toNat (w : HostWord) : w.toNat % 4 = (w.extractLsb' 0 2).toNat := by
  simp [BitVec.extractLsb'_toNat]

theorem revisionBit_toNat (w : HostWord) : w.toNat / 4 % 2 = (w.extractLsb' 2 1).toNat := by
  simp [BitVec.extractLsb'_toNat, Nat.shiftRight_eq_div_pow]

theorem revision_ofBit_eq_extended {w : HostWord} :
    Revision.ofBit (w.toNat / 4) = .extended ↔ w.extractLsb' 2 1 = 1#1 := by
  rw [Revision.ofBit, revisionBit_toNat, ← BitVec.toNat_inj]
  split <;> simp_all

theorem leBytes_getD (k : Nat) {i : Nat} (n : Nat) (hi : i < k) :
    (leBytes k n).getD i 0#8 = BitVec.ofNat 8 (n / 256 ^ i) := by
  induction k generalizing i n with
  | zero => omega
  | succ k ih =>
    cases i with
    | zero => simp [leBytes]
    | succ i =>
      rw [leBytes, List.getD_cons_succ, ih (n / 256) (by omega), Nat.div_div_eq_div_mul, pow_succ, Nat.mul_comm]

theorem extractLsb'_eq_ofNat {n : Nat} (w : BitVec n) (start len : Nat) :
    w.extractLsb' start len = BitVec.ofNat len (w.toNat / 2 ^ start) := by
  apply BitVec.eq_of_toNat_eq
  rw [BitVec.extractLsb'_toNat, BitVec.toNat_ofNat, Nat.shiftRight_eq_div_pow]

theorem hostWord_payloadByte (w : HostWord) {i : Nat} (hi : i < 13) :
    (bytesVec 13 (leBytes 13 (w.toNat / 32768))).toList.getD i 0#8 = w.extractLsb' (15 + 8 * i) 8 := by
  rw [bytesVec_toList, fit_of_length (leBytes_length 13 _), leBytes_getD 13 _ hi, extractLsb'_eq_ofNat,
    Nat.div_div_eq_div_mul, pow_add, pow_mul]
  rfl

/-- Settles O3: the kind of the word decides (R61), and a field is a quotient of the word by its position. -/
theorem hostWordFields : Obligations.HostWordFields := by
  intro w
  rw [decode_hostBytes]
  have hkind := kind_toNat w
  refine ⟨fun h hrev => ?_, fun h hrev => ?_, fun h => ?_, fun h => ?_⟩
  · rw [h] at hkind
    have hbit := revisionBit_toNat w
    rw [hrev] at hbit
    rw [decodeHostNat_open hkind, Revision.ofBit, hbit]
    rfl
  · rw [h] at hkind
    rw [decodeHostNat_open hkind, revision_ofBit_eq_extended.mpr hrev]
  · rw [h] at hkind
    refine ⟨_, ?_, fun i hi => hostWord_payloadByte w hi⟩
    rw [decodeHostNat_exchange hkind, extractLsb'_eq_ofNat, extractLsb'_eq_ofNat]
    rfl
  · refine decodeHostNat_reserved ?_
    rw [hkind]
    exact h.imp (fun h => by rw [h]; rfl) (fun h => by rw [h]; rfl)

/-- Settles O5: five closed evaluations of the decoder. -/
theorem sampleWordsDecode : Obligations.SampleWordsDecode := ⟨rfl, rfl, rfl, rfl, rfl⟩

end Sys2Proof

/-! ### The checksum's detection, the fields of a record, the remap bit (R24, R25, R56, R67, R100, R115) -/

namespace Sys2Proof.Machine

/-! #### What LRC-8 detects -/

theorem byteSum_perm {s t : List Byte} (h : s.Perm t) : byteSum s = byteSum t := by
  induction h with
  | nil => rfl
  | cons x _ ih => rw [byteSum, byteSum, ih]
  | swap x y l =>
    simp only [byteSum]
    omega
  | trans _ _ ih₁ ih₂ => exact ih₁.trans ih₂

theorem lrc8_ne_of_byte_ne (before after : List Byte) {a b : Byte} (h : a ≠ b) :
    lrc8 (before ++ a :: after) ≠ lrc8 (before ++ b :: after) := by
  intro heq
  have ha := a.isLt
  have hb := b.isLt
  have hne : a.toNat ≠ b.toNat := mt BitVec.eq_of_toNat_eq h
  have hsum := congrArg BitVec.toNat heq
  simp only [lrc8_toNat, byteSum_append, byteSum] at hsum
  omega

/-- Settles O8: the checksum is a function of the sum, which one changed byte moves by less than 256 and no reordering moves. -/
theorem lrcDetection : Obligations.LrcDetection :=
  ⟨fun before after _ _ h => lrc8_ne_of_byte_ne before after h, fun s t h => by rw [lrc8, lrc8, byteSum_perm h]⟩

/-! #### The records of DECODE -/

/-- The five records that DECODE can answer, written out (R106 to R112). -/
theorem decodeResponse_records (raw : List Byte) (n l : Nat) :
    (raw.length ≠ n ∧ decodeResponse raw n l = Response.bare .errorTimeout) ∨
    (raw.length = n ∧
      (decodeResponse raw n l = Response.bare .errorChecksumOnReceive ∨
       decodeResponse raw n l =
        { code := .errorChecksumOnSend, statusValid := true, status := raw.getD 3 0#8, payloadValid := false, payload := [] } ∨
       decodeResponse raw n l =
        { code := .errorGeneric, statusValid := true, status := raw.getD 3 0#8, payloadValid := true,
          payload := (raw.drop 4).take l } ∨
       decodeResponse raw n l =
        { code := .success, statusValid := true, status := raw.getD 3 0#8, payloadValid := true,
          payload := (raw.drop 4).take l })) := by
  rcases decodeResponse_cases raw n l with ⟨hlen, he⟩ | ⟨hlen, _, he⟩ | ⟨hlen, _, he⟩
  · exact .inl ⟨hlen, he⟩
  · exact .inr ⟨hlen, .inl he⟩
  · rw [he, decodeStatus]
    split_ifs with hFE hFF
    · exact .inr ⟨hlen, .inr (.inl rfl)⟩
    · exact .inr ⟨hlen, .inr (.inr (.inl rfl))⟩
    · exact .inr ⟨hlen, .inr (.inr (.inr rfl))⟩

theorem payloadSlice_length {raw : List Byte} {l : Nat} (h : l + 5 ≤ raw.length) : ((raw.drop 4).take l).length = l := by
  rw [List.length_take, List.length_drop]
  omega

theorem payloadSlice_getD (raw : List Byte) {l i : Nat} (hi : i < l) :
    ((raw.drop 4).take l).getD i 0#8 = raw.getD (4 + i) 0#8 := by
  simp [List.getElem?_take_of_lt hi]

/-- Settles O13: the five records of `decodeResponse_records` have five codes, and each shows which of its fields are valid. -/
theorem responseFieldsByCode : Obligations.ResponseFieldsByCode := by
  intro raw n l hl
  rcases decodeResponse_records raw n l with ⟨_, he⟩ | ⟨rfl, he | he | he | he⟩ <;> rw [he]
  · simp [Response.bare]
  · simp [Response.bare]
  · simp
  · simpa [payloadSlice_length hl] using fun i hi => payloadSlice_getD raw hi
  · simpa [payloadSlice_length hl] using fun i hi => payloadSlice_getD raw hi

/-! #### What DECODE does not look at -/

/-- A whole response with its own right checksum: its status and its payload decide, whatever its first three bytes and its
padding are. -/
theorem decodeResponse_of_parts {h pl pad : List Byte} {st c : Byte} {n : Nat} (hh : h.length = 3)
    (hn : n = 5 + pl.length + pad.length) (hc : c = lrc8 (slice (h ++ st :: (pl ++ pad)) 2 (n - 2))) :
    decodeResponse (h ++ st :: (pl ++ pad) ++ [c]) n pl.length = decodeStatus st pl := by
  have hbody : (h ++ st :: (pl ++ pad)).length = n - 1 := by
    simp only [List.length_append, List.length_cons]
    omega
  have hstatus : (h ++ st :: (pl ++ pad) ++ [c]).getD 3 0#8 = st := by
    match h, hh with
    | [_, _, _], _ => rfl
  have hpayload : ((h ++ st :: (pl ++ pad) ++ [c]).drop 4).take pl.length = pl := by
    match h, hh with
    | [_, _, _], _ => simp
  rw [decodeResponse_of_valid, hstatus, hpayload]
  · rw [List.length_append, hbody, List.length_singleton]
    omega
  · rw [slice_append_of_lt _ (by omega) (by omega), ← hc, List.getD_append_right _ _ _ _ hbody.le, hbody]
    simp

theorem decodeResponse_header (a b a' b' : Byte) {rest : List Byte} (n l : Nat) (hrest : rest ≠ []) :
    decodeResponse (a :: b :: rest) n l = decodeResponse (a' :: b' :: rest) n l := by
  by_cases hn : rest.length + 2 = n
  · obtain ⟨r, rs, rfl⟩ := List.exists_cons_of_ne_nil hrest
    subst hn
    rfl
  · rw [decodeResponse, decodeResponse, if_pos (by simpa using hn), if_pos (by simpa using hn)]

/-- Settles O14: the covered bytes start at index 2, and the checksum byte is the only one that sees the padding. -/
theorem validatorIgnoresHeader : Obligations.ValidatorIgnoresHeader := by
  refine ⟨fun a b a' b' rest n l hrest => decodeResponse_header a b a' b' n l hrest, ?_⟩
  intro h h' st pl pad pad' c c' n hh hh' hpad hn hc hc'
  rw [decodeResponse_of_parts hh hn hc, decodeResponse_of_parts hh' (hpad ▸ hn) hc']

/-! #### The remap bit -/

/-- The table's row of opcode 4, the one with the remap (R67, R74). -/
theorem registry_four (ps : Params) (rev : Revision) :
    registry ps rev 0x04#8 = some { opcode := 0x04#8, len := 4#5, variant := .standard, remap := true } := by
  obtain ⟨hfixed, _⟩ := registry_tableRows ps rev
  exact hfixed { opcode := 0x04#8, len := 4#5, variant := .standard, remap := true } (by decide)

/-- Settles O18: no row but opcode 4's may have the remap, and opcode 4's row is fixed. -/
theorem remapOnlyAtOpcodeFour : Obligations.RemapOnlyAtOpcodeFour := by
  intro ps rev op d h
  obtain ⟨_, hremap, _, hop⟩ := registry_some h
  refine ⟨⟨hremap, ?_⟩, hop⟩
  rintro rfl
  rw [registry_four] at h
  injection h with h
  rw [← h]

end Sys2Proof.Machine

/-! ### Commands in CLOSED and IDLE (R61, R70 to R96, R121 to R125, R148) -/

namespace Sys2Proof.Machine

/-! #### The common exchange and its rows -/

theorem commonExchange_closed (op : Byte) (plen : BitVec 4) (p : Payload) {s : State} (h : s.phase = .closed) :
    commonExchange op plen p s = .next (exchangeInClosed s) := by
  simp [commonExchange, h]

theorem commonExchange_idle (op : Byte) (plen : BitVec 4) (p : Payload) {s : State} (h : s.phase = .idle) :
    commonExchange op plen p s = .next (exchangeInIdle op plen p s) := by
  simp [commonExchange, h]

theorem commonExchange_illegal (op : Byte) (plen : BitVec 4) (p : Payload) {s : State} (h : s.phase = .illegal) :
    commonExchange op plen p s = .fault .illegalState := by
  simp [commonExchange, h]

theorem exchangeInIdle_tooLong (op : Byte) {plen : BitVec 4} (p : Payload) (s : State) (h : 14 ≤ plen.toNat) :
    exchangeInIdle op plen p s = { s with fltCmd := true } := by
  rcases exchangeInIdle_cases op plen p s with ⟨_, he⟩ | ⟨_, he⟩ | ⟨_, _, hle, _⟩
  · exact he
  · exact he
  · omega

theorem exec_openSession_idle (rev : Revision) {s : State} (h : s.phase = .idle) :
    exec (.openSession rev) s = .next (raiseCmdFault .alreadyOpen s) := by
  simp [exec, execOpen, h]

/-- Settles O21: in CLOSED the common exchange examines no field (R123), and each row is a common exchange. -/
theorem exchangeWithoutSession : Obligations.ExchangeWithoutSession := by
  intro s h
  refine ⟨fun op plen p => commonExchange_closed op plen p h, fun op p i hrow => ?_, by simp [txValid, h]⟩
  obtain ⟨_, _, hexec⟩ := frameRow_some hrow
  rw [hexec, commonExchange_closed op _ p h]
  rfl

/-- Settles O23: each refusal of R125 is `raiseCmdFault`, which sets `flt_cmd` alone (R162). -/
theorem refusedCommands : Obligations.RefusedCommands := by
  intro s h
  refine ⟨fun rev => exec_openSession_idle rev h, fun op plen p hreg => ?_, fun op plen p hlong => ?_⟩
  · rw [exec_exchange_idle op plen p h, exchangeInIdle_unassigned plen p hreg]
    rfl
  · rw [exec_exchange_idle op plen p h, exchangeInIdle_tooLong op p s hlong]

/-- A supply of fewer than 13 bytes is accepted as its padded payload is (R54). -/
theorem exchangeInIdle_padded (op : Byte) {plen : BitVec 4} (p : Payload) (s : State) (h : plen.toNat ≤ 13) :
    exchangeInIdle op plen p s = exchangeInIdle op 13#4 (bytesVec 13 (p.toList.take plen.toNat)) s := by
  cases hreg : registry s.params s.rev op with
  | none => rw [exchangeInIdle_unassigned plen p hreg, exchangeInIdle_unassigned 13#4 _ hreg]
  | some d =>
    have hframe := encodeFrame_fit op p.toList h (h.trans_eq p.length_toList.symm)
    rw [exchangeInIdle_accepted p hreg h, exchangeInIdle_accepted _ hreg (by decide), acceptExchange, acceptExchange,
      hframe, bytesVec_toList]
    rfl

/-- Settles O27: the payload is looked at in IDLE alone, where a short one is padded; in flight every cycle is the exchange's. -/
theorem exchangeIsItsRow : Obligations.ExchangeIsItsRow := by
  intro op plen p i s hplen hrow
  obtain ⟨_, _, hexec⟩ := frameRow_some hrow
  rw [hexec, show exec (.exchange op plen p) s = commonExchange op plen p s from rfl]
  by_cases hbusy : s.busy = true
  · rw [commonExchange_busy hbusy, commonExchange_busy hbusy]
  cases hp : s.phase with
  | closed => rw [commonExchange_closed _ _ _ hp, commonExchange_closed _ _ _ hp]
  | idle => rw [commonExchange_idle _ _ _ hp, commonExchange_idle _ _ _ hp, exchangeInIdle_padded op p s hplen]
  | tx => exact absurd (busy_iff.mpr (.inl hp)) hbusy
  | settle => exact absurd (busy_iff.mpr (.inr (.inl hp))) hbusy
  | rx => exact absurd (busy_iff.mpr (.inr (.inr hp))) hbusy
  | illegal => rw [commonExchange_illegal _ _ _ hp, commonExchange_illegal _ _ _ hp]

/-! #### The rows of the opcode table in IDLE -/

theorem exec_row_idle {op : Byte} {p : Payload} {i : Instr} {s : State} (hrow : frameRow op p = some i)
    (h : s.phase = .idle) : exec i s = .next (exchangeInIdle op 13#4 p s) := by
  obtain ⟨_, _, hexec⟩ := frameRow_some hrow
  rw [hexec, commonExchange_idle _ _ _ h]

/-- A row in IDLE whose opcode has a descriptor: every register of the next state, and the frame written out (R101, R124). -/
theorem exec_row_accepted {op : Byte} {p : Payload} {i : Instr} {s : State} {d : Descriptor}
    (hrow : frameRow op p = some i) (h : s.phase = .idle) (hreg : registry s.params s.rev op = some d) :
    ∃ t, exec i s = .next t ∧
      t = { s with
        lat := { op := op, n := if d.variant = .large then 28#5 else 10#5, l := d.len, remap := d.remap }
        txBuf := t.txBuf
        txIdx := 0#5
        res := ResultRegs.cleared
        fifo := if s.params.rxFlushOnExchange then [] else s.fifo
        state := 2#3 } ∧
      t.txBuf.toList = [0xFF#8, 0xFE#8, 0x10#8, op] ++ p.toList ++ [lrc8 ([0x10#8, op] ++ p.toList)] := by
  have hle : (13#4).toNat ≤ 13 := by decide
  refine ⟨acceptExchange d op 13#4 p s, ?_, ?_, ?_⟩
  · rw [exec_row_idle hrow h, exchangeInIdle_accepted p hreg hle]
  · rw [← responseLength_eq_ite]
    rfl
  · rw [acceptExchange_txBuf_toList d op p s hle]
    exact encodeFrame_payload op p

/-- The descriptor of an opcode 0..11: the table's row, which a registry may replace at the opcodes 0 and 10 (R74; log 3). -/
theorem registry_legacyRow (ps : Params) (rev : Revision) {d₀ : Descriptor} (h : d₀ ∈ legacyRows) :
    ∃ d, registry ps rev d₀.opcode = some d ∧
      ((d₀.opcode ≠ 0x00#8 ∧ d₀.opcode ≠ 0x0A#8) ∨ (∃ extLen, ps.registry = defaultRegistry extLen) → d = d₀) ∧
      (d₀.opcode = 0x00#8 → d.len = 0#5) := by
  obtain ⟨hfixed, ⟨echo, hecho, hlen⟩, ⟨serial, hserial⟩⟩ := registry_tableRows ps rev
  have hdefault {d : Descriptor} (hd : registry ps rev d₀.opcode = some d)
      (hd₀ : ∃ extLen, ps.registry = defaultRegistry extLen) : d = d₀ := by
    obtain ⟨extLen, hext⟩ := hd₀
    exact Option.some.inj (hd.symm.trans (registry_default hext rev h))
  rcases List.mem_cons.mp h with rfl | h'
  · exact ⟨echo, hecho, fun hor => hor.elim (fun hne => absurd rfl hne.1) (hdefault hecho), fun _ => hlen⟩
  rcases List.mem_cons.mp h' with rfl | hmem
  · exact ⟨serial, hserial, fun hor => hor.elim (fun hne => absurd rfl hne.2) (hdefault hserial),
      fun hop => absurd hop (by decide)⟩
  · have hne : ∀ d ∈ fixedRows, d.opcode ≠ 0x00#8 := by decide
    exact ⟨d₀, hfixed d₀ hmem, fun _ => rfl, fun hop => absurd hop (hne d₀ hmem)⟩

/-- The remap of an assigned opcode 0..11 is its table row's, whatever the registry holds at the opcodes 0 and 10 (R67). -/
theorem registry_legacyRow_remap {ps : Params} {rev : Revision} {d₀ d : Descriptor} (h : d₀ ∈ legacyRows)
    (hd : registry ps rev d₀.opcode = some d) : d.remap = d₀.remap := by
  obtain ⟨hiff, _⟩ := remapOnlyAtOpcodeFour ps rev _ d hd
  have hrow : ∀ d ∈ legacyRows, d.remap = true ↔ d.opcode = 0x04#8 := by decide
  exact Bool.eq_iff_iff.mpr (hiff.trans (hrow d₀ h).symm)

/-- The statement of O25 for a row of the table with the opcode, N, L and remap of a default descriptor. -/
theorem legacyRow_accepted {i : Payload → Instr} {op : Byte} {n l : BitVec 5} {remap : Bool}
    (hrow : ∀ p, frameRow op p = some (i p))
    (htable : ∃ d ∈ legacyRows, d.opcode = op ∧ responseLength d.variant = n ∧ d.len = l ∧ d.remap = remap)
    (p : Payload) (s : State) (h : s.phase = .idle) :
    ∃ t d, exec (i p) s = .next t ∧ registry s.params s.rev op = some d ∧
      t = { s with
        lat := { op := op, n := if d.variant = .large then 28#5 else 10#5, l := d.len, remap := remap }
        txBuf := t.txBuf
        txIdx := 0#5
        res := ResultRegs.cleared
        fifo := if s.params.rxFlushOnExchange then [] else s.fifo
        state := 2#3 } ∧
      t.txBuf.toList = [0xFF#8, 0xFE#8, 0x10#8, op] ++ p.toList ++ [lrc8 ([0x10#8, op] ++ p.toList)] ∧
      ((op ≠ 0x00#8 ∧ op ≠ 0x0A#8) ∨ (∃ extLen, s.params.registry = defaultRegistry extLen) →
        t.lat.n = n ∧ t.lat.l = l) ∧
      (op = 0x00#8 → t.lat.l = 0#5) := by
  obtain ⟨d₀, hd₀, rfl, rfl, rfl, rfl⟩ := htable
  obtain ⟨d, hreg, hdefault, hecho⟩ := registry_legacyRow s.params s.rev hd₀
  obtain ⟨t, hexec, ht, hframe⟩ := exec_row_accepted (hrow p) h hreg
  rw [registry_legacyRow_remap hd₀ hreg, ← responseLength_eq_ite] at ht
  refine ⟨t, d, hexec, hreg, ?_, hframe, fun hor => ?_, fun hop => ?_⟩
  · rwa [← responseLength_eq_ite]
  · rw [ht, hdefault hor]
    exact ⟨rfl, rfl⟩
  · rw [ht]
    exact hecho hop

/-- Settles O25: each row is one of `legacyRow_accepted`. -/
theorem legacyOpcodesAccepted : Obligations.LegacyOpcodesAccepted := by
  intro row hmem
  simp only [List.mem_cons, List.not_mem_nil, or_false] at hmem
  rcases hmem with rfl | rfl | rfl | rfl | rfl | rfl | rfl | rfl | rfl | rfl | rfl | rfl <;>
    exact legacyRow_accepted (fun _ => rfl) (by decide)

/-- `EXT_LEN` of an extended opcode in a default registry (R87 to R95). -/
theorem registry_default_extLen {ps : Params} {extLen : Vector (Fin 2) 9} {op : Byte} {d : Descriptor}
    (hdefault : ps.registry = defaultRegistry extLen) (hop : 12 ≤ op.toNat) (hreg : registry ps .extended op = some d) :
    d.len.toNat = (extLen.toList.getD (op.toNat - 12) 0).val := by
  rw [registry, hdefault] at hreg
  have hl := (extLen.toList.getD (op.toNat - 12) 0).isLt
  rw [defaultRegistry_extended_row hop hreg, extRow, BitVec.toNat_ofNat]
  omega

/-- The statement of O26 for the row of one extended opcode. -/
theorem extendedRow_accepted {i : Payload → Instr} {op : Byte} (hrow : ∀ p, frameRow op p = some (i p))
    (hext : op ∈ extOpcodes) (p : Payload) (s : State) (h : s.phase = .idle) :
    (s.rev = .extended →
      ∃ t d, exec (i p) s = .next t ∧ registry s.params .extended op = some d ∧
        t = { s with
          lat := { op := op, n := 10#5, l := d.len, remap := false }
          txBuf := t.txBuf
          txIdx := 0#5
          res := ResultRegs.cleared
          fifo := if s.params.rxFlushOnExchange then [] else s.fifo
          state := 2#3 } ∧
        t.txBuf.toList = [0xFF#8, 0xFE#8, 0x10#8, op] ++ p.toList ++ [lrc8 ([0x10#8, op] ++ p.toList)] ∧
        t.lat.l = d.len ∧ d.len.toNat ≤ 5 ∧
        (∀ extLen, s.params.registry = defaultRegistry extLen →
          t.lat.l.toNat = (extLen.toList.getD (op.toNat - 12) 0).val)) ∧
    (s.rev = .legacy → exec (i p) s = .next { s with fltCmd := true }) := by
  obtain ⟨⟨d, hreg, hvariant, hremap, hlen⟩, hnone⟩ := registry_ext (ps := s.params) hext
  constructor
  · intro hrev
    obtain ⟨t, hexec, ht, hframe⟩ := exec_row_accepted (hrow p) h (hrev.symm ▸ hreg)
    rw [← responseLength_eq_ite, hvariant, hremap] at ht
    have hl : t.lat.l = d.len := by rw [ht]
    have hop : ∀ op ∈ extOpcodes, 12 ≤ op.toNat := by decide
    refine ⟨t, d, hexec, hreg, ht, hframe, hl, hlen, fun extLen hdefault => ?_⟩
    rw [hl, registry_default_extLen hdefault (hop op hext) hreg]
  · intro hrev
    rw [exec_row_idle (hrow p) h, exchangeInIdle_unassigned 13#4 p (hrev.symm ▸ hnone)]
    rfl

/-- Settles O26: each row is one of `extendedRow_accepted`. -/
theorem extendedOpcodesAccepted : Obligations.ExtendedOpcodesAccepted := by
  intro row hmem
  simp only [List.mem_cons, List.not_mem_nil, or_false] at hmem
  rcases hmem with rfl | rfl | rfl | rfl | rfl | rfl | rfl | rfl | rfl <;>
    exact extendedRow_accepted (fun _ => rfl) (by decide)

/-! #### Edges that run no instruction -/

theorem cycleAction_no_command {s : State} (hp : s.phase = .closed ∨ s.phase = .idle) (hv : s.pins.cmdValid = false) :
    cycleAction s = .next s := by
  rcases hp with hp | hp <;> simp [cycleAction, fetchBytes, exchangeCycle, hp, hv]

theorem cycleAction_reserved {s : State} (hp : s.phase = .closed ∨ s.phase = .idle) (hv : s.pins.cmdValid = true)
    (hk : s.pins.cmdWord.extractLsb' 0 2 = 2#2 ∨ s.pins.cmdWord.extractLsb' 0 2 = 3#2) :
    cycleAction s = .next (raiseCmdFault .reservedKind s) := by
  obtain ⟨_, _, _, hreserved⟩ := hostWordFields s.pins.cmdWord
  rcases hp with hp | hp <;> simp [cycleAction, fetchBytes, undecoded, hp, hv, hreserved hk]

/-- An edge whose state action leads to `u`. -/
theorem step_of_cycleAction {s u : State} (hr : s.pins.rst = false) (h : cycleAction s = .next u) :
    step s = .next (finishCycle s u) := by
  rw [step_run hr, h]
  rfl

/-- The inputs after this edge do not depend on those of this edge. -/
theorem pinsAt_one_setPins (s : State) (p : Pins) : State.pinsAt 1 { s with pins := p } = State.pinsAt 1 s := by
  simp only [State.pinsAt, State.advance]

theorem callPins_of_error {hp : HostParams} {c : HostCall} {e : InvalidArgument} (p : Pins)
    (h : commandOf hp c = .error e) : callPins hp c p = { p with cmdValid := false } := by
  simp [callPins, h]

/-- The calls that the host rejects for an argument (R148). -/
theorem commandOf_rejected {hp : HostParams} {c : HostCall} {n : Int}
    (h : ((c = .saveNthFreq n ∨ c = .getNthFreq n) ∧ n < 0) ∨
      (c = .setOutputConfig n ∧ ∀ b : Byte, n = b.toNat → hp.outputConfigMap b = none) ∨
      (c = .setRefClockSource n ∧ ∀ b : Byte, n = b.toNat → hp.refClockSourceMap b = none) ∨
      (c = .setFreq n ∧ (n < 0 ∨ 2 ^ 32 ≤ n))) :
    ∃ e, commandOf hp c = .error e := by
  rcases h with ⟨rfl | rfl, hn⟩ | ⟨rfl, hmap⟩ | ⟨rfl, hmap⟩ | ⟨rfl, hn⟩
  · exact ⟨_, indexCommand_of_neg hn⟩
  · exact ⟨_, indexCommand_of_neg hn⟩
  · exact ⟨_, enumCommand_of_notInMap hmap⟩
  · exact ⟨_, enumCommand_of_notInMap hmap⟩
  · exact ⟨.frequencyOutOfRange, by simp only [commandOf, checkFrequency_eq_none.mpr hn, Option.bind_none]⟩

/-- Settles O24: the state action of such an edge is none or `raiseCmdFault`, and `finishCycle_eq` writes out the rest. A rejected
call leaves the port without a command. -/
theorem cyclesWithoutInstruction : Obligations.CyclesWithoutInstruction := by
  intro s hr hp
  refine ⟨fun hv => ?_, fun hv hk => ?_, fun hp' c n hc => ?_⟩
  · exact ⟨_, step_of_cycleAction hr (cycleAction_no_command hp hv), finishCycle_eq s s⟩
  · exact ⟨_, step_of_cycleAction hr (cycleAction_reserved hp hv hk), finishCycle_eq s _⟩
  · obtain ⟨e, he⟩ := commandOf_rejected hc
    refine ⟨⟨e, he⟩, _, step_of_cycleAction ?_ (cycleAction_no_command hp ?_), ?_⟩
    · rw [callPins_of_error _ he]
      exact hr
    · rw [callPins_of_error _ he]
    · rw [callPins_of_error _ he, AfterEdge, finishCycle_eq, pinsAt_one_setPins]
      rfl

end Sys2Proof.Machine

/-! ### One edge: what each operation keeps, and what a step can change (R9, R16 to R26, R119 to R131) -/

namespace Sys2Proof.Machine

/-! #### The fields that the operations of the exchange keep -/

section Fields

variable (s : State)

@[simp] theorem openInClosed_lat (rev : Revision) : (openInClosed rev s).lat = s.lat := by unfold openInClosed; split_ifs <;> rfl
@[simp] theorem openInClosed_txBuf (rev : Revision) : (openInClosed rev s).txBuf = s.txBuf := by unfold openInClosed; split_ifs <;> rfl
@[simp] theorem openInClosed_rxBuf (rev : Revision) : (openInClosed rev s).rxBuf = s.rxBuf := by unfold openInClosed; split_ifs <;> rfl
@[simp] theorem openInClosed_fifo (rev : Revision) : (openInClosed rev s).fifo = s.fifo := by unfold openInClosed; split_ifs <;> rfl
@[simp] theorem openInClosed_fltCmd (rev : Revision) : (openInClosed rev s).fltCmd = s.fltCmd := by unfold openInClosed; split_ifs <;> rfl
@[simp] theorem openInClosed_fltRxOverflow (rev : Revision) : (openInClosed rev s).fltRxOverflow = s.fltRxOverflow := by unfold openInClosed; split_ifs <;> rfl
@[simp] theorem openInClosed_params (rev : Revision) : (openInClosed rev s).params = s.params := by unfold openInClosed; split_ifs <;> rfl
@[simp] theorem openInClosed_pins (rev : Revision) : (openInClosed rev s).pins = s.pins := by unfold openInClosed; split_ifs <;> rfl
@[simp] theorem openInClosed_future (rev : Revision) : (openInClosed rev s).future = s.future := by unfold openInClosed; split_ifs <;> rfl
@[simp] theorem openInClosed_cycle (rev : Revision) : (openInClosed rev s).cycle = s.cycle := by unfold openInClosed; split_ifs <;> rfl

@[simp] theorem txStep_rev : (txStep s).rev = s.rev := by unfold txStep; split_ifs <;> rfl
@[simp] theorem txStep_lat : (txStep s).lat = s.lat := by unfold txStep; split_ifs <;> rfl
@[simp] theorem txStep_txBuf : (txStep s).txBuf = s.txBuf := by unfold txStep; split_ifs <;> rfl
@[simp] theorem txStep_rxBuf : (txStep s).rxBuf = s.rxBuf := by unfold txStep; split_ifs <;> rfl
@[simp] theorem txStep_fifo : (txStep s).fifo = s.fifo := by unfold txStep; split_ifs <;> rfl
@[simp] theorem txStep_res : (txStep s).res = s.res := by unfold txStep; split_ifs <;> rfl
@[simp] theorem txStep_fltCmd : (txStep s).fltCmd = s.fltCmd := by unfold txStep; split_ifs <;> rfl
@[simp] theorem txStep_fltRxOverflow : (txStep s).fltRxOverflow = s.fltRxOverflow := by unfold txStep; split_ifs <;> rfl
@[simp] theorem txStep_params : (txStep s).params = s.params := by unfold txStep; split_ifs <;> rfl
@[simp] theorem txStep_pins : (txStep s).pins = s.pins := by unfold txStep; split_ifs <;> rfl
@[simp] theorem txStep_future : (txStep s).future = s.future := by unfold txStep; split_ifs <;> rfl
@[simp] theorem txStep_cycle : (txStep s).cycle = s.cycle := by unfold txStep; split_ifs <;> rfl

@[simp] theorem settleStep_rev : (settleStep s).rev = s.rev := by unfold settleStep; split_ifs <;> rfl
@[simp] theorem settleStep_lat : (settleStep s).lat = s.lat := by unfold settleStep; split_ifs <;> rfl
@[simp] theorem settleStep_txBuf : (settleStep s).txBuf = s.txBuf := by unfold settleStep; split_ifs <;> rfl
@[simp] theorem settleStep_rxBuf : (settleStep s).rxBuf = s.rxBuf := by unfold settleStep; split_ifs <;> rfl
@[simp] theorem settleStep_fifo : (settleStep s).fifo = s.fifo := by unfold settleStep; split_ifs <;> rfl
@[simp] theorem settleStep_res : (settleStep s).res = s.res := by unfold settleStep; split_ifs <;> rfl
@[simp] theorem settleStep_fltCmd : (settleStep s).fltCmd = s.fltCmd := by unfold settleStep; split_ifs <;> rfl
@[simp] theorem settleStep_fltRxOverflow : (settleStep s).fltRxOverflow = s.fltRxOverflow := by unfold settleStep; split_ifs <;> rfl
@[simp] theorem settleStep_params : (settleStep s).params = s.params := by unfold settleStep; split_ifs <;> rfl
@[simp] theorem settleStep_pins : (settleStep s).pins = s.pins := by unfold settleStep; split_ifs <;> rfl
@[simp] theorem settleStep_future : (settleStep s).future = s.future := by unfold settleStep; split_ifs <;> rfl
@[simp] theorem settleStep_cycle : (settleStep s).cycle = s.cycle := by unfold settleStep; split_ifs <;> rfl

end Fields

/-! #### One cycle in RX, with or without a byte -/

/-- `rx_buf` after the pop of this RX cycle, if there is one (R127). -/
def readBuf (s : State) : Vector Byte 28 :=
  match s.fifo with
  | [] => s.rxBuf
  | b :: _ => s.rxBuf.setIfInBounds s.rxCnt.toNat b

/-- `rx_cnt'` of R127: the bytes read after the pop of this RX cycle. -/
def readCount (s : State) : BitVec 5 := if s.fifo = [] then s.rxCnt else s.rxCnt + 1#5

theorem readBuf_nil {s : State} (h : s.fifo = []) : readBuf s = s.rxBuf := by
  simp [readBuf, h]

theorem readBuf_cons {s : State} {b : Byte} {rest : List Byte} (h : s.fifo = b :: rest) :
    readBuf s = s.rxBuf.setIfInBounds s.rxCnt.toNat b := by
  simp [readBuf, h]

theorem readCount_nil {s : State} (h : s.fifo = []) : readCount s = s.rxCnt := by
  simp [readCount, h]

theorem readCount_cons {s : State} {b : Byte} {rest : List Byte} (h : s.fifo = b :: rest) :
    readCount s = s.rxCnt + 1#5 := by
  simp [readCount, h]

theorem rxStep_eq (s : State) :
    rxStep s = rxAdvance (!s.fifo.isEmpty) (readCount s) { s with fifo := s.fifo.tail, rxBuf := readBuf s } := by
  cases hf : s.fifo with
  | nil =>
    have hs : s = { s with fifo := [] } := by rw [← hf]
    rw [rxStep_nil hf, readCount_nil hf, readBuf_nil hf]
    exact congrArg (rxAdvance false s.rxCnt) hs
  | cons b rest =>
    rw [rxStep_cons hf, readCount_cons hf, readBuf_cons hf]
    rfl

/-- Everything an RX cycle can do: latch the decoded frame, end the window, or go on (R127, R129, R130). -/
theorem rxStep_cases (s : State) :
    (s.fifo ≠ [] ∧ readCount s = s.lat.n ∧
      rxStep s = { s with
        fifo := s.fifo.tail
        rxBuf := readBuf s
        state := stIdle
        res := resultOf
          (remapCode (decodeResponse ((readBuf s).toList.take s.lat.n.toNat) s.lat.n.toNat s.lat.l.toNat).code s.lat.remap)
          (decodeResponse ((readBuf s).toList.take s.lat.n.toNat) s.lat.n.toNat s.lat.l.toNat) }) ∨
    (¬(s.fifo ≠ [] ∧ readCount s = s.lat.n) ∧ s.cnt = s.params.timeoutCycles - 1 ∧
      rxStep s = { s with
        fifo := s.fifo.tail
        rxBuf := readBuf s
        state := stIdle
        res := resultOf .errorTimeout
          (decodeResponse ((readBuf s).toList.take (readCount s).toNat) s.lat.n.toNat s.lat.l.toNat) }) ∨
    (¬(s.fifo ≠ [] ∧ readCount s = s.lat.n) ∧ s.cnt ≠ s.params.timeoutCycles - 1 ∧
      rxStep s = { s with fifo := s.fifo.tail, rxBuf := readBuf s, cnt := s.cnt + 1, rxCnt := readCount s }) := by
  have hpop : (!s.fifo.isEmpty) = true ↔ s.fifo ≠ [] := by simp
  rw [rxStep_eq, ← hpop]
  exact rxAdvance_cases (!s.fifo.isEmpty) (readCount s) { s with fifo := s.fifo.tail, rxBuf := readBuf s }

section RxFields

variable (s : State)

@[simp] theorem rxStep_rev : (rxStep s).rev = s.rev := by
  rcases rxStep_cases s with ⟨_, _, he⟩ | ⟨_, _, he⟩ | ⟨_, _, he⟩ <;> rw [he]
@[simp] theorem rxStep_lat : (rxStep s).lat = s.lat := by
  rcases rxStep_cases s with ⟨_, _, he⟩ | ⟨_, _, he⟩ | ⟨_, _, he⟩ <;> rw [he]
@[simp] theorem rxStep_txBuf : (rxStep s).txBuf = s.txBuf := by
  rcases rxStep_cases s with ⟨_, _, he⟩ | ⟨_, _, he⟩ | ⟨_, _, he⟩ <;> rw [he]
@[simp] theorem rxStep_rxBuf : (rxStep s).rxBuf = readBuf s := by
  rcases rxStep_cases s with ⟨_, _, he⟩ | ⟨_, _, he⟩ | ⟨_, _, he⟩ <;> rw [he]
@[simp] theorem rxStep_fifo : (rxStep s).fifo = s.fifo.tail := by
  rcases rxStep_cases s with ⟨_, _, he⟩ | ⟨_, _, he⟩ | ⟨_, _, he⟩ <;> rw [he]
@[simp] theorem rxStep_fltCmd : (rxStep s).fltCmd = s.fltCmd := by
  rcases rxStep_cases s with ⟨_, _, he⟩ | ⟨_, _, he⟩ | ⟨_, _, he⟩ <;> rw [he]
@[simp] theorem rxStep_fltRxOverflow : (rxStep s).fltRxOverflow = s.fltRxOverflow := by
  rcases rxStep_cases s with ⟨_, _, he⟩ | ⟨_, _, he⟩ | ⟨_, _, he⟩ <;> rw [he]
@[simp] theorem rxStep_params : (rxStep s).params = s.params := by
  rcases rxStep_cases s with ⟨_, _, he⟩ | ⟨_, _, he⟩ | ⟨_, _, he⟩ <;> rw [he]
@[simp] theorem rxStep_pins : (rxStep s).pins = s.pins := by
  rcases rxStep_cases s with ⟨_, _, he⟩ | ⟨_, _, he⟩ | ⟨_, _, he⟩ <;> rw [he]
@[simp] theorem rxStep_future : (rxStep s).future = s.future := by
  rcases rxStep_cases s with ⟨_, _, he⟩ | ⟨_, _, he⟩ | ⟨_, _, he⟩ <;> rw [he]
@[simp] theorem rxStep_cycle : (rxStep s).cycle = s.cycle := by
  rcases rxStep_cases s with ⟨_, _, he⟩ | ⟨_, _, he⟩ | ⟨_, _, he⟩ <;> rw [he]

end RxFields

theorem cycleAction_tx {s : State} (h : s.phase = .tx) : cycleAction s = .next (txStep s) :=
  (cycleAction_busy (busy_iff.mpr (.inl h))).trans (exchangeCycle_tx h)

theorem cycleAction_settle {s : State} (h : s.phase = .settle) : cycleAction s = .next (settleStep s) :=
  (cycleAction_busy (busy_iff.mpr (.inr (.inl h)))).trans (exchangeCycle_settle h)

theorem cycleAction_rx {s : State} (h : s.phase = .rx) : cycleAction s = .next (rxStep s) :=
  (cycleAction_busy (busy_iff.mpr (.inr (.inr h)))).trans (exchangeCycle_rx h)

theorem exec_settle (i : Instr) {s : State} (h : s.phase = .settle) : exec i s = .next (settleStep s) := by
  rw [exec_busy (busy_iff.mpr (.inr (.inl h))), exchangeCycle_settle h]

/-- Settles O29: in SETTLE every instruction's cycle is `settleStep` (R120), which is R126's cycle. -/
theorem settleCycle : Obligations.SettleCycle := fun i _ h => exec_settle i h

/-- Fewer than N bytes read decode to the bare ErrorTimeout (R107). -/
theorem decodeResponse_short {s : State} {got : Nat} (buf : Vector Byte 28) (h : got < s.lat.n.toNat) :
    decodeResponse (buf.toList.take got) s.lat.n.toNat s.lat.l.toNat = Response.bare .errorTimeout := by
  rw [decodeResponse, if_pos]
  rw [List.length_take]
  omega

/-- Settles O31: without a pop the frame cannot be complete, and what was read is short. -/
theorem readCycleWithoutByte : Obligations.ReadCycleWithoutByte := by
  intro i s hp hf hshort
  rw [exec_rx i hp, rxStep_nil hf]
  rcases rxAdvance_cases false s.rxCnt s with ⟨hpop, _⟩ | ⟨_, hlast, he⟩ | ⟨_, hlast, he⟩
  · cases hpop
  · rw [he, if_pos hlast, readTimeout_eq, decodeResponse_short s.rxBuf hshort, resultOf_bare]
  · rw [he, if_neg hlast]

/-! #### What a record of DECODE satisfies -/

/-- What the result registers need of a record (R22 to R25, R160). -/
structure Response.Sound (r : Response) : Prop where
  payload_le : r.payload.length ≤ 23
  no_payload : r.payloadValid = false → r.payload = []
  payload_has_status : r.payloadValid = true → r.statusValid = true
  no_status : r.statusValid = false → r.status = 0#8
  not_remapped : r.code ≠ .errorNoSavedFrequency
  no_warning : r.code ≠ .warningFrequencyOutOfRange

theorem Response.bare_sound {code : ResultCode} (h₁ : code ≠ .errorNoSavedFrequency)
    (h₂ : code ≠ .warningFrequencyOutOfRange) : (Response.bare code).Sound :=
  ⟨Nat.zero_le _, fun _ => rfl, fun h => h, fun _ => rfl, h₁, h₂⟩

theorem decodeResponse_code_ne (raw : List Byte) (n l : Nat) :
    (decodeResponse raw n l).code ≠ .errorNoSavedFrequency ∧
      (decodeResponse raw n l).code ≠ .warningFrequencyOutOfRange := by
  rcases decodeResponse_records raw n l with ⟨_, he⟩ | ⟨_, he | he | he | he⟩ <;> rw [he] <;> simp [Response.bare]

theorem decodeResponse_sound (raw : List Byte) (n : Nat) {l : Nat} (hl : l ≤ 23) : (decodeResponse raw n l).Sound := by
  have htake : ((raw.drop 4).take l).length ≤ 23 := (List.length_take_le _ _).trans hl
  rcases decodeResponse_records raw n l with ⟨_, he⟩ | ⟨_, he | he | he | he⟩ <;> rw [he]
  · exact Response.bare_sound nofun nofun
  · exact Response.bare_sound nofun nofun
  · exact ⟨Nat.zero_le _, fun _ => rfl, fun _ => rfl, nofun, nofun, nofun⟩
  · exact ⟨htake, nofun, fun _ => rfl, nofun, nofun, nofun⟩
  · exact ⟨htake, nofun, fun _ => rfl, nofun, nofun, nofun⟩

/-- REMAP changes ErrorGeneric of a command with the remap bit, and nothing else (R114). -/
theorem remapCode_cases (code : ResultCode) (remap : Bool) :
    (remap = true ∧ code = .errorGeneric ∧ remapCode code remap = .errorNoSavedFrequency) ∨
    (¬(remap = true ∧ code = .errorGeneric) ∧ remapCode code remap = code) := by
  unfold remapCode
  split_ifs with h
  · exact .inl ⟨h.1, h.2, rfl⟩
  · exact .inr ⟨h, rfl⟩

/-- Settles O32: such a cycle latches the remapped DECODE, whose raw code is never ErrorNoSavedFrequency. -/
theorem remapFiresOnGenericError : Obligations.RemapFiresOnGenericError := by
  intro i s t hp hf hfull h
  rw [exec_rx i hp] at h
  injection h with h
  obtain ⟨b, rest, hcons⟩ := List.exists_cons_of_ne_nil hf
  have hcount : readCount s = s.lat.n := (readCount_cons hcons).trans hfull
  rcases rxStep_cases s with ⟨_, _, he⟩ | ⟨hno, _⟩ | ⟨hno, _⟩
  · rw [← h, he]
    obtain ⟨hsaved, _⟩ :=
      decodeResponse_code_ne ((readBuf s).toList.take s.lat.n.toNat) s.lat.n.toNat s.lat.l.toNat
    rcases remapCode_cases (decodeResponse ((readBuf s).toList.take s.lat.n.toNat) s.lat.n.toNat s.lat.l.toNat).code
      s.lat.remap with ⟨hr, hg, hc⟩ | ⟨hn, hc⟩ <;>
      simp only [resultOf] <;> rw [hc]
    · simp [hr, hg]
    · exact ⟨⟨fun hcode => absurd hcode hsaved, fun hrg => absurd hrg hn⟩, fun _ => rfl⟩
  · exact absurd ⟨hf, hcount⟩ hno
  · exact absurd ⟨hf, hcount⟩ hno

/-! #### The step, the parameters and the inputs -/

/-- Settles O34: the fetched instruction is the state action, and `finishCycle_eq` writes out the rest of the edge. -/
theorem stepRunsDecodedInstruction : Obligations.StepRunsDecodedInstruction := by
  intro s bs i hr hfetch hdec
  have hact : cycleAction s = exec i s := by simp only [cycleAction, hfetch, hdec]
  refine ⟨by rw [step_run hr, hact], fun u hu => ?_⟩
  exact ⟨_, step_of_cycleAction hr (hact.trans hu), finishCycle_eq s u⟩

/-- Settles O35: the registers are `State.reset`'s, and the advance of the inputs changes none. -/
theorem resetEdge : Obligations.ResetEdge := by
  intro s hr
  refine ⟨_, step_reset hr, ?_⟩
  simp only [statusWord, advance_state, advance_rev, advance_lat, advance_txBuf, advance_txIdx, advance_rxBuf,
    advance_rxCnt, advance_cnt, advance_fifo, advance_res, advance_fltCmd, advance_fltRxOverflow, resetRegs_state,
    resetRegs_rev, resetRegs_res, resetRegs_fltCmd, resetRegs_fltRxOverflow]
  exact ⟨rfl, rfl, rfl, rfl, rfl, rfl, rfl, rfl, rfl, rfl, rfl, rfl, rfl, rfl, rfl, rfl, rfl, rfl, rfl, by decide⟩

/-- The state action changes neither the parameters nor the inputs, and `flt_rx_overflow` is the line side's. -/
theorem cycleAction_keeps {s u : State} (h : cycleAction s = .next u) :
    u.params = s.params ∧ u.pins = s.pins ∧ u.future = s.future ∧ u.cycle = s.cycle ∧
      u.fltRxOverflow = s.fltRxOverflow := by
  rcases cycleAction_cases h with ⟨_, rfl | rfl | ⟨_, rfl⟩ | rfl⟩ | ⟨_, rfl | ⟨_, rfl⟩ | ⟨_, _, _, _, _, _, rfl⟩⟩ |
    ⟨_, rfl⟩ | ⟨_, rfl⟩ | ⟨_, rfl⟩ <;> simp [exchangeInClosed]

/-- Settles O43: neither a reset nor a state action touches these fields, and the end of every edge moves the inputs on. -/
theorem parametersAndInputs : Obligations.ParametersAndInputs := by
  intro s t h
  rcases step_cases h with ⟨_, rfl⟩ | ⟨_, u, hu, rfl⟩
  · exact ⟨advance_params _, fun k => pinsAt_congr (k + 1) (s := s.resetRegs) rfl rfl rfl, advance_cycle _⟩
  · obtain ⟨hparams, hpins, hfuture, hcycle, _⟩ := cycleAction_keeps hu
    refine ⟨by simpa using hparams, pinsAt_finishCycle hpins hfuture hcycle, by simpa using hcycle⟩

/-! #### The command port in flight -/

/-- The advance of the inputs reads everything but the inputs of this edge. -/
theorem advance_setPins (s : State) (p : Pins) : State.advance { s with pins := p } = s.advance := by
  simp only [State.advance]

theorem txStep_setPins {s : State} {p : Pins} (h : p.txReady = s.pins.txReady) :
    txStep { s with pins := p } = { txStep s with pins := p } := by
  simp only [txStep, h]
  split_ifs <;> rfl

theorem settleStep_setPins (s : State) (p : Pins) :
    settleStep { s with pins := p } = { settleStep s with pins := p } := by
  simp only [settleStep]
  split_ifs <;> rfl

theorem rxAdvance_setPins (popped : Bool) (got : BitVec 5) (s : State) (p : Pins) :
    rxAdvance popped got { s with pins := p } = { rxAdvance popped got s with pins := p } := by
  simp only [rxAdvance]
  split_ifs <;> rfl

theorem rxStep_setPins (s : State) (p : Pins) : rxStep { s with pins := p } = { rxStep s with pins := p } := by
  rw [rxStep_eq, rxStep_eq]
  exact rxAdvance_setPins _ _ { s with fifo := s.fifo.tail, rxBuf := readBuf s } p

/-- In flight, only `tx_ready` of the inputs enters the state action. -/
theorem exchangeCycle_setPins {s : State} {p : Pins} (hb : s.busy = true) (h : p.txReady = s.pins.txReady) :
    ∃ u, exchangeCycle s = .next u ∧ exchangeCycle { s with pins := p } = .next { u with pins := p } := by
  rcases busy_iff.mp hb with hp | hp | hp
  · exact ⟨txStep s, exchangeCycle_tx hp, (exchangeCycle_tx (s := { s with pins := p }) hp).trans (by rw [txStep_setPins h])⟩
  · exact ⟨settleStep s, exchangeCycle_settle hp,
      (exchangeCycle_settle (s := { s with pins := p }) hp).trans (by rw [settleStep_setPins])⟩
  · exact ⟨rxStep s, exchangeCycle_rx hp, (exchangeCycle_rx (s := { s with pins := p }) hp).trans (by rw [rxStep_setPins])⟩

theorem finishCycle_setPins {s : State} (u : State) {p : Pins} (hv : p.rxValid = s.pins.rxValid)
    (hd : p.rxData = s.pins.rxData) : finishCycle { s with pins := p } { u with pins := p } = finishCycle s u := by
  have hphase : State.phase { s with pins := p } = s.phase := rfl
  rw [finishCycle_eq, finishCycle_eq, pinsAt_one_setPins]
  simp only [hv, hd, hphase]

/-- In flight a step reads, of the inputs of its edge, reset, `tx_ready` and the line side. -/
theorem step_busy_setPins {s : State} {p : Pins} (hb : s.busy = true) (hrst : p.rst = s.pins.rst)
    (htx : p.txReady = s.pins.txReady) (hv : p.rxValid = s.pins.rxValid) (hd : p.rxData = s.pins.rxData) :
    step { s with pins := p } = step s := by
  cases hr : s.pins.rst with
  | true =>
    rw [step_reset (s := { s with pins := p }) (hrst.trans hr), step_reset hr]
    exact congrArg _ (advance_setPins s.resetRegs p)
  | false =>
    obtain ⟨u, hu, hu'⟩ := exchangeCycle_setPins hb htx
    rw [step_of_cycleAction hr ((cycleAction_busy hb).trans hu),
      step_of_cycleAction (s := { s with pins := p }) (hrst.trans hr)
        ((cycleAction_busy (s := { s with pins := p }) hb).trans hu'), finishCycle_setPins u hv hd]

/-- Settles O37: the command port is none of the inputs that `step_busy_setPins` names. -/
theorem commandPortIgnoredInFlight : Obligations.CommandPortIgnoredInFlight :=
  fun _ _ _ hb => step_busy_setPins hb rfl rfl rfl rfl

/-! #### What a step can change -/

/-- A step without reset is its state action, finished. -/
theorem step_noReset {s t : State} (hr : s.pins.rst = false) (h : step s = .next t) :
    ∃ u, cycleAction s = .next u ∧ t = finishCycle s u := by
  rcases step_cases h with ⟨hrst, _⟩ | ⟨_, hu⟩
  · rw [hr] at hrst
    cases hrst
  · exact hu

theorem cycleAction_fltCmd {s u : State} (h : cycleAction s = .next u) (hflt : s.fltCmd = true) : u.fltCmd = true := by
  rcases cycleAction_cases h with ⟨_, rfl | rfl | ⟨_, rfl⟩ | rfl⟩ | ⟨_, rfl | ⟨_, rfl⟩ | ⟨_, _, _, _, _, _, rfl⟩⟩ |
    ⟨_, rfl⟩ | ⟨_, rfl⟩ | ⟨_, rfl⟩ <;> simp [exchangeInClosed, hflt]

/-- Settles O38: no state action writes 0 into a fault flag, nor does the push. -/
theorem faultsAreSticky : Obligations.FaultsAreSticky := by
  intro s t hr h
  obtain ⟨u, hu, rfl⟩ := step_noReset hr h
  obtain ⟨_, _, _, _, hoverflow⟩ := cycleAction_keeps hu
  refine ⟨fun hflt => ?_, fun hflt => ?_⟩
  · rw [finishCycle_fltCmd]
    exact cycleAction_fltCmd hu hflt
  · rw [finishCycle_eq]
    simp [hoverflow, hflt]

/-- The edges of a Session: the phases that follow each other, and the revision kept (R15, R16, R137). -/
theorem cycleAction_session {s u : State} (h : cycleAction s = .next u) (hp : s.phase ≠ .closed) :
    u.phase ≠ .closed ∧ u.rev = s.rev := by
  rcases cycleAction_cases h with ⟨hc, _⟩ | ⟨hi, rfl | ⟨_, rfl⟩ | ⟨_, _, _, _, _, _, rfl⟩⟩ | ⟨ht, rfl⟩ | ⟨hs, rfl⟩ |
    ⟨hx, rfl⟩
  case inl => exact absurd hc hp
  case inr.inl.inl => exact ⟨hp, rfl⟩
  case inr.inl.inr.inl => exact ⟨hp, rfl⟩
  case inr.inl.inr.inr => exact ⟨by simp, rfl⟩
  case inr.inr.inl => exact ⟨by rcases txStep_phase s with he | he <;> simp [he, ht], txStep_rev s⟩
  case inr.inr.inr.inl => exact ⟨by rcases settleStep_phase s with he | he <;> simp [he, hs], settleStep_rev s⟩
  case inr.inr.inr.inr => exact ⟨by rcases rxStep_phase s with he | he <;> simp [he, hx], rxStep_rev s⟩

/-- Settles O39: `cycleAction_session`, and the rest of the edge writes neither register. -/
theorem sessionLastsUntilReset : Obligations.SessionLastsUntilReset := by
  intro s t hr h hp
  obtain ⟨u, hu, rfl⟩ := step_noReset hr h
  simpa using cycleAction_session hu hp

/-- A host command word is an OPEN exactly if its kind is 0, and its revision is bit 2 (R59, R61). -/
theorem decodeHostNat_eq_open {w : HostWord} :
    (∃ rev, decodeHostNat w.toNat = .ok (.openSession rev)) ↔ w.extractLsb' 0 2 = 0#2 := by
  have hkind := kind_toNat w
  rw [← BitVec.toNat_inj]
  constructor
  · rintro ⟨rev, h⟩
    by_contra hne
    have hne' : w.toNat % 4 ≠ 0 := fun h0 => hne (hkind.symm.trans h0)
    rcases (show w.toNat % 4 = 1 ∨ (w.toNat % 4 = 2 ∨ w.toNat % 4 = 3) by omega) with h1 | h23
    · rw [decodeHostNat_exchange h1] at h
      cases h
    · rw [decodeHostNat_reserved h23] at h
      cases h
  · intro h
    exact ⟨_, decodeHostNat_open (hkind.trans h)⟩

theorem decodeHostNat_open_rev {w : HostWord} {rev : Revision}
    (h : decodeHostNat w.toNat = .ok (.openSession rev)) : rev = .extended ↔ w.extractLsb' 2 1 = 1#1 := by
  have hkind := congrArg BitVec.toNat (decodeHostNat_eq_open.mp ⟨rev, h⟩)
  rw [← kind_toNat] at hkind
  rw [decodeHostNat_open hkind] at h
  injection h with h
  injection h with h
  rw [← h, revision_ofBit_eq_extended]

/-- Settles O40: of the cases of `cycleAction_closed`, only OPEN writes `state` or `rev`, and only with the link. -/
theorem revisionWrittenByOpen : Obligations.RevisionWrittenByOpen := by
  intro s t hr h hp
  obtain ⟨u, hu, rfl⟩ := step_noReset hr h
  have hkind := decodeHostNat_eq_open (w := s.pins.cmdWord)
  rcases cycleAction_closed hp with ⟨hv, he⟩ | ⟨_, hd, he⟩ | ⟨rev, hv, hd, he⟩ | ⟨op, plen, p, _, hd, he⟩ <;>
    rw [he] at hu <;> injection hu with hu <;> subst hu
  · simp [hp, hv]
  · simp [hp, ← hkind, hd]
  · have hrev := decodeHostNat_open_rev hd
    rcases openInClosed_cases rev s with ⟨hl, ho⟩ | ⟨hl, ho⟩
    · have hphase : (openInClosed rev s).phase = .idle := by
        rw [ho]
        rfl
      have hwritten : (openInClosed rev s).rev = rev := by rw [ho]
      simp [hphase, hwritten, hv, hl, hkind.mp ⟨rev, hd⟩, ← hrev]
    · have hphase : (openInClosed rev s).phase = .closed := by
        rw [ho]
        exact hp
      have hkept : (openInClosed rev s).rev = s.rev := by rw [ho]
      simp [hphase, hkept, hl]
  · simp [exchangeInClosed, hp, ← hkind, hd]

/-- Every write of the result registers: a command in CLOSED, an acceptance in IDLE, or a completion in RX (R22). -/
theorem cycleAction_res {s u : State} (h : cycleAction s = .next u) :
    u.res = s.res ∨
    (s.phase = .closed ∧ (u.res = resultOf .success (Response.bare .success) ∨
      u.res = resultOf .errorOpenPort (Response.bare .errorOpenPort))) ∨
    (s.phase = .idle ∧ u.phase = .tx ∧ u.res = ResultRegs.cleared) ∨
    (s.phase = .rx ∧ u.phase = .idle ∧
      ∃ code raw, u.res = resultOf code (decodeResponse raw s.lat.n.toNat s.lat.l.toNat) ∧
        (code = .errorTimeout ∨
          code = remapCode (decodeResponse raw s.lat.n.toNat s.lat.l.toNat).code s.lat.remap)) := by
  rcases cycleAction_cases h with ⟨hc, hu⟩ | ⟨hi, hu⟩ | ⟨_, rfl⟩ | ⟨_, rfl⟩ | ⟨hx, rfl⟩
  case inl =>
    rcases hu with rfl | rfl | ⟨rev, rfl⟩ | rfl
    · exact .inl rfl
    · exact .inl rfl
    · rcases openInClosed_cases rev s with ⟨_, he⟩ | ⟨_, he⟩ <;> rw [he]
      · exact .inr (.inl ⟨hc, .inl rfl⟩)
      · exact .inr (.inl ⟨hc, .inr rfl⟩)
    · exact .inr (.inl ⟨hc, .inr rfl⟩)
  case inr.inl =>
    rcases hu with rfl | ⟨_, rfl⟩ | ⟨_, _, _, _, _, _, rfl⟩
    · exact .inl rfl
    · exact .inl rfl
    · exact .inr (.inr (.inl ⟨hi, rfl, rfl⟩))
  case inr.inr.inl => exact .inl (txStep_res s)
  case inr.inr.inr.inl => exact .inl (settleStep_res s)
  case inr.inr.inr.inr =>
    rcases rxStep_cases s with ⟨_, _, he⟩ | ⟨_, _, he⟩ | ⟨_, _, he⟩ <;> rw [he]
    · exact .inr (.inr (.inr ⟨hx, rfl, _, _, rfl, .inr rfl⟩))
    · exact .inr (.inr (.inr ⟨hx, rfl, _, _, rfl, .inl rfl⟩))
    · exact .inl rfl

/-- Settles O41: `cycleAction_res` lists the writes; one in CLOSED needs a command, since an edge without one changes nothing. -/
theorem resultStability : Obligations.ResultStability := by
  intro s t hr h hne
  obtain ⟨u, hu, rfl⟩ := step_noReset hr h
  rw [finishCycle_res] at hne
  rw [finishCycle_res, finishCycle_phase]
  rcases cycleAction_res hu with he | ⟨hc, he⟩ | ⟨hi, ht, he⟩ | ⟨hx, hi, code, raw, he, _⟩
  · exact absurd he hne
  · refine .inl ⟨hc, ?_, by rcases he with he | he <;> rw [he] <;> rfl⟩
    by_contra hv
    rw [cycleAction_no_command (.inl hc) (by simpa using hv)] at hu
    injection hu with hu
    exact hne (by rw [hu])
  · exact .inr (.inl ⟨hi, ht, he⟩)
  · exact .inr (.inr ⟨hx, hi, by rw [he]; rfl⟩)

/-- Settles O47: a step writes cleared registers, a bare record of OPEN or EXCHANGE, or a code of DECODE, remapped or
ErrorTimeout. -/
theorem warningNeverProduced : Obligations.WarningNeverProduced := by
  intro s t h hcode hraw
  rcases step_cases h with ⟨_, rfl⟩ | ⟨_, u, hu, rfl⟩
  · rw [advance_res, resetRegs_res]
    exact ⟨by decide, by decide⟩
  rw [finishCycle_res]
  rcases cycleAction_res hu with he | ⟨_, he | he⟩ | ⟨_, _, he⟩ | ⟨_, _, code, raw, he, hc⟩ <;> rw [he]
  · exact ⟨hcode, hraw⟩
  · exact ⟨by decide, by decide⟩
  · exact ⟨by decide, by decide⟩
  · exact ⟨by decide, by decide⟩
  · obtain ⟨_, hwarning⟩ := decodeResponse_code_ne raw s.lat.n.toNat s.lat.l.toNat
    refine ⟨?_, hwarning⟩
    rcases hc with rfl | rfl
    · exact ResultCode.noConfusion
    · rcases remapCode_cases (decodeResponse raw s.lat.n.toNat s.lat.l.toNat).code s.lat.remap with
        ⟨_, _, hc⟩ | ⟨_, hc⟩
      · simp [resultOf, hc]
      · simpa [resultOf, hc] using hwarning

/-- Settles O42: `acceptExchange` is the one writer of the latches and of `tx_buf`, `rxStep` that of `rx_buf`. -/
theorem buffersWrittenOnlyWhere : Obligations.BuffersWrittenOnlyWhere := by
  intro s t hr h
  obtain ⟨u, hu, rfl⟩ := step_noReset hr h
  rcases cycleAction_cases hu with ⟨_, rfl | rfl | ⟨_, rfl⟩ | rfl⟩ | ⟨hi, rfl | ⟨_, rfl⟩ | ⟨_, _, _, _, _, _, rfl⟩⟩ |
    ⟨_, rfl⟩ | ⟨_, rfl⟩ | ⟨hx, rfl⟩
  case inr.inl.inr.inr => simp [hi]
  case inr.inr.inr.inr =>
    refine ⟨by simp, fun hne => ⟨hx, fun hf => hne ?_⟩⟩
    rw [finishCycle_rxBuf, rxStep_rxBuf, readBuf_nil hf]
  all_goals simp [exchangeInClosed]

/-! #### The receive FIFO -/

/-- The state action's part of R44: the flush of an acceptance, the pop of RX, or nothing. -/
theorem cycleAction_fifo {s u : State} (h : cycleAction s = .next u) :
    (s.phase = .idle ∧ u.phase = .tx ∧ u.fifo = if s.params.rxFlushOnExchange then [] else s.fifo) ∨
    (s.phase = .rx ∧ u.fifo = s.fifo.tail) ∨
    (s.phase ≠ .rx ∧ ¬(s.phase = .idle ∧ u.phase = .tx) ∧ u.fifo = s.fifo) := by
  rcases cycleAction_cases h with ⟨hc, hu⟩ | ⟨hi, rfl | ⟨_, rfl⟩ | ⟨_, _, _, _, _, _, rfl⟩⟩ | ⟨ht, rfl⟩ | ⟨hs, rfl⟩ |
    ⟨hx, rfl⟩
  case inl => rcases hu with rfl | rfl | ⟨_, rfl⟩ | rfl <;> simp [hc, exchangeInClosed]
  case inr.inl.inl => simp [hi]
  case inr.inl.inr.inl => simp [hi]
  case inr.inl.inr.inr => simp [hi]
  case inr.inr.inl => simp [ht]
  case inr.inr.inr.inl => simp [hs]
  case inr.inr.inr.inr => simp [hx]

theorem cycleAction_fifo_length_le {s u : State} (h : cycleAction s = .next u)
    (hle : s.fifo.length ≤ s.params.rxFifoDepth) : u.fifo.length ≤ u.params.rxFifoDepth := by
  obtain ⟨hparams, _⟩ := cycleAction_keeps h
  rcases cycleAction_fifo h with ⟨_, _, hf⟩ | ⟨_, hf⟩ | ⟨_, _, hf⟩ <;> rw [hf, hparams]
  · split
    · exact Nat.zero_le _
    · exact hle
  · rw [List.length_tail]
    omega
  · exact hle

theorem cycleAction_fifo_flushed {s u : State} (h : cycleAction s = .next u)
    (hflush : s.params.rxFlushOnExchange = true ∧ s.phase = .idle ∧ u.phase = .tx) : u.fifo = [] := by
  obtain ⟨hon, hi, ht⟩ := hflush
  rcases cycleAction_fifo h with ⟨_, _, hf⟩ | ⟨hx, _⟩ | ⟨_, hno, _⟩
  · rw [hf, if_pos hon]
  · rw [hi] at hx
    cases hx
  · exact absurd ⟨hi, ht⟩ hno

/-- Without a flush, the FIFO after the pop, if there is one (R44). -/
theorem cycleAction_fifo_popped {s u : State} {pop : Bool} (h : cycleAction s = .next u)
    (hpop : pop = true ↔ s.phase = .rx ∧ 0 < s.fifo.length)
    (hflush : ¬(s.params.rxFlushOnExchange = true ∧ s.phase = .idle ∧ u.phase = .tx)) :
    u.fifo = if pop then s.fifo.tail else s.fifo := by
  rcases cycleAction_fifo h with ⟨hi, ht, hf⟩ | ⟨hx, hf⟩ | ⟨hx, _, hf⟩
  · have hnopop : ¬pop = true := fun hy => by simpa [hi] using hpop.mp hy
    rw [hf, if_neg (fun hon => hflush ⟨hon, hi, ht⟩), if_neg hnopop]
  · rw [hf]
    split_ifs with hy
    · rfl
    · have hnil : s.fifo = [] := by
        by_contra hne
        exact hy (hpop.mpr ⟨hx, List.length_pos_iff.mpr hne⟩)
      rw [hnil, List.tail_nil]
  · have hnopop : ¬pop = true := fun hy => hx (hpop.mp hy).1
    rw [hf, if_neg hnopop]

/-- The push of R44 into a FIFO within its depth. -/
theorem finishCycle_push {s u : State} {push : Bool} (hpush : push = true ↔ s.pins.rxValid = true ∧ s.phase ≠ .closed)
    (hle : u.fifo.length ≤ u.params.rxFifoDepth) :
    (finishCycle s u).fifo =
      (if push then if u.fifo.length = u.params.rxFifoDepth then u.fifo else u.fifo ++ [s.pins.rxData] else u.fifo) ∧
    (finishCycle s u).fltRxOverflow =
      (u.fltRxOverflow || (push && decide (u.fifo.length = u.params.rxFifoDepth))) := by
  rw [finishCycle_fifo, finishCycle_fltRxOverflow]
  rcases capture_cases s u with ⟨hno, he⟩ | ⟨hyes, hfull, he⟩ | ⟨hyes, hroom, he⟩ <;> rw [he]
  · have hp : push = false := by simpa using mt hpush.mp hno
    simp [hp]
  · simp [hpush.mpr hyes, hle.antisymm hfull]
  · simp [hpush.mpr hyes, hroom.ne]

/-- Settles O36: the state action flushes or pops, `finishCycle_push` is the push after it. -/
theorem fifoUpdate : Obligations.FifoUpdate := by
  intro s t hr hle h pop push flush hpop hpush hflush
  obtain ⟨u, hu, rfl⟩ := step_noReset hr h
  obtain ⟨hparams, _, _, _, hoverflow⟩ := cycleAction_keeps hu
  rw [finishCycle_phase] at hflush
  obtain ⟨hfifo, hflt⟩ := finishCycle_push hpush (cycleAction_fifo_length_le hu hle)
  rw [hfifo, hflt, hoverflow, hparams]
  constructor
  · intro hf
    have hdepth : 0 ≠ s.params.rxFifoDepth := by
      have := s.params.depth_ge
      omega
    simp [cycleAction_fifo_flushed hu (hflush.mp hf), hdepth]
  · intro hf
    rw [cycleAction_fifo_popped hu hpop (mt hflush.mpr (by simp [hf]))]
    exact ⟨rfl, rfl⟩

end Sys2Proof.Machine

/-! ### The invariant of the block (R15 to R26, R35, R173) -/

namespace Sys2Proof.Machine

/-! #### Coherent result registers -/

theorem ResultRegs.cleared_coherent : ResultRegs.cleared.Coherent := by
  refine ⟨fun _ => rfl, by decide, fun i _ => ?_, fun _ => rfl, fun h => h, fun _ => rfl, .inl rfl, by decide, by decide⟩
  by_cases hi : i < 23
  · rw [ResultRegs.cleared, bytesVec_toList, fit_getD _ hi]
    rfl
  · exact List.getD_eq_default _ _ (by simpa using hi)

/-- `complete` writes coherent registers from a sound record, under its own code or the remapped one (R128, R114). -/
theorem resultOf_coherent {code : ResultCode} {r : Response} (hr : r.Sound)
    (hc : code = r.code ∨ (r.code = .errorGeneric ∧ code = .errorNoSavedFrequency)) : (resultOf code r).Coherent := by
  have hplen := resultOf_plen_toNat code hr.payload_le
  refine ⟨(fun h => by cases h), ?_, fun i hi => ?_, fun h => ?_, hr.payload_has_status, hr.no_status, ?_,
    hr.not_remapped, ?_⟩
  · rw [hplen]
    split
    · exact hr.payload_le
    · omega
  · by_cases hi23 : i < 23
    · rw [resultOf_payload_getD code r hi23]
      apply List.getD_eq_default
      cases hv : r.payloadValid with
      | true => rwa [hplen, if_pos hv] at hi
      | false =>
        rw [hr.no_payload hv]
        exact Nat.zero_le i
    · exact List.getD_eq_default _ _ (by simpa using hi23)
  · replace h : r.payloadValid = false := h
    simp [resultOf, h]
  · exact hc.imp id fun h => h
  · rcases hc with rfl | ⟨_, rfl⟩
    · exact hr.no_warning
    · exact ResultCode.noConfusion

theorem resultOf_bare_coherent {code : ResultCode} (h₁ : code ≠ .errorNoSavedFrequency)
    (h₂ : code ≠ .warningFrequencyOutOfRange) : (resultOf code (Response.bare code)).Coherent :=
  resultOf_coherent (Response.bare_sound h₁ h₂) (.inl rfl)

/-! #### The invariant, phase by phase

A clause of the invariant speaks of some phases; in each phase, the clauses that speak of it are hypotheses of its lemma here. -/

theorem busy_eq_false {s : State} (h : s.phase = .closed ∨ s.phase = .idle) : s.busy = false := by
  rcases h with h | h <;> simp [State.busy, h]

theorem inv_of_closed {s : State} (hp : s.phase = .closed) (hidx : s.txIdx = 0#5) (hf : s.fifo = [])
    (hr : s.res.Coherent) : s.Inv := by
  have hb := busy_eq_false (.inl hp)
  constructor <;> simp_all

theorem inv_of_idle {s : State} (hp : s.phase = .idle) (hidx : s.txIdx = 0#5)
    (hf : s.fifo.length ≤ s.params.rxFifoDepth) (hv : s.res.valid = true) (hr : s.res.Coherent) : s.Inv := by
  have hb := busy_eq_false (.inr hp)
  constructor <;> simp_all

/-- What the invariant says of the exchange in flight: the registry's descriptor, its frame, and no result yet. -/
structure InFlight (s : State) : Prop where
  descriptor : (registry s.params s.rev s.lat.op).map (latchOf s.lat.op) = some s.lat
  frame : frameIsFor s.lat.op s.txBuf = true
  pending : s.res.valid = false

theorem State.Inv.inFlight {s : State} (hi : s.Inv) (hb : s.busy = true) : InFlight s :=
  ⟨hi.descriptor hb, hi.frame hb, hi.pending hb⟩

/-- The response of the exchange in flight has N 10 or 28 bytes, L of them payload at most (R68, R69). -/
theorem InFlight.lengths {s : State} (h : InFlight s) :
    s.lat.l.toNat + 5 ≤ s.lat.n.toNat ∧ (s.lat.n.toNat = 10 ∨ s.lat.n.toNat = 28) := by
  obtain ⟨d, hd, hlat⟩ := Option.map_eq_some_iff.mp h.descriptor
  obtain ⟨hfits, _⟩ := registry_some hd
  rw [← hlat]
  exact ⟨hfits, responseLength_toNat d.variant⟩

theorem inv_of_tx {s : State} (hp : s.phase = .tx) (hidx : s.txIdx.toNat ≤ 17) (h : InFlight s)
    (hf : s.fifo.length ≤ s.params.rxFifoDepth) (hr : s.res.Coherent) : s.Inv := by
  obtain ⟨hdescriptor, hframe, hpending⟩ := h
  constructor <;> simp_all

theorem inv_of_settle {s : State} (hp : s.phase = .settle) (hidx : s.txIdx = 0#5) (h : InFlight s)
    (hcnt : s.cnt < s.params.settleCycles) (hf : s.fifo.length ≤ s.params.rxFifoDepth) (hr : s.res.Coherent) :
    s.Inv := by
  obtain ⟨hdescriptor, hframe, hpending⟩ := h
  constructor <;> simp_all

theorem inv_of_rx {s : State} (hp : s.phase = .rx) (hidx : s.txIdx = 0#5) (h : InFlight s)
    (hcnt : s.cnt < s.params.timeoutCycles) (hread : s.rxCnt.toNat < s.lat.n.toNat)
    (hf : s.fifo.length ≤ s.params.rxFifoDepth) (hr : s.res.Coherent) : s.Inv := by
  obtain ⟨hdescriptor, hframe, hpending⟩ := h
  constructor <;> simp_all

/-- The push and the next inputs keep the invariant: only a phase other than CLOSED lets a byte in (R45). -/
theorem finishCycle_inv {s u : State} (hu : u.Inv) (hc : u.phase = .closed → s.phase = .closed) :
    (finishCycle s u).Inv := by
  rw [finishCycle_eq]
  refine ⟨hu.legal, hu.tx_idx_le, hu.tx_idx_zero, hu.descriptor, hu.frame, hu.pending, hu.settle_cnt, hu.window_cnt,
    hu.rx_cnt, ?_, fun hp => ?_, hu.idle_result, hu.result⟩
  · change List.length (if _ then _ else _) ≤ u.params.rxFifoDepth
    split_ifs with h
    · rw [List.length_append, List.length_singleton]
      exact h.2.2
    · exact hu.fifo_le
  · change (if _ then _ else _) = []
    rw [if_neg (fun h => h.2.1 (hc hp))]
    exact hu.closed_fifo hp

theorem resetRegs_inv (s : State) : s.resetRegs.Inv :=
  inv_of_closed (resetRegs_phase s) rfl rfl ResultRegs.cleared_coherent

theorem advance_inv {s : State} (h : s.Inv) : s.advance.Inv := by
  have hb : s.advance.busy = s.busy := by simp [State.busy]
  refine ⟨?_, ?_, ?_, ?_, ?_, ?_, ?_, ?_, ?_, ?_, ?_, ?_, ?_⟩ <;>
    simp only [advance_phase, advance_txIdx, hb, advance_params, advance_rev, advance_lat, advance_txBuf, advance_res,
      advance_cnt, advance_rxCnt, advance_fifo]
  exacts [h.legal, h.tx_idx_le, h.tx_idx_zero, h.descriptor, h.frame, h.pending, h.settle_cnt, h.window_cnt, h.rx_cnt,
    h.fifo_le, h.closed_fifo, h.idle_result, h.result]

/-- Settles O44: the reset state is CLOSED with an empty FIFO and cleared result registers. -/
theorem resetSatisfiesInvariant : Obligations.ResetSatisfiesInvariant := resetRegs_inv State.reset

/-! #### Each state action keeps the invariant -/

theorem State.Inv.txIdx_eq_zero {s : State} {ph : Phase} (hi : s.Inv) (hp : s.phase = ph) (hne : ph ≠ .tx) :
    s.txIdx = 0#5 :=
  hi.tx_idx_zero (hp.trans_ne hne)

theorem openInClosed_inv {s : State} (rev : Revision) (hi : s.Inv) (hp : s.phase = .closed) :
    (openInClosed rev s).Inv := by
  have hidx := hi.txIdx_eq_zero hp (by decide)
  rcases openInClosed_cases rev s with ⟨_, he⟩ | ⟨_, he⟩ <;> rw [he]
  · exact inv_of_idle rfl hidx hi.fifo_le rfl (resultOf_bare_coherent (by decide) (by decide))
  · exact inv_of_closed hp hidx (hi.closed_fifo hp) (resultOf_bare_coherent (by decide) (by decide))

theorem exchangeInClosed_inv {s : State} (hi : s.Inv) (hp : s.phase = .closed) : (exchangeInClosed s).Inv :=
  inv_of_closed hp (hi.txIdx_eq_zero hp (by decide)) (hi.closed_fifo hp)
    (resultOf_bare_coherent (by decide) (by decide))

/-- No clause of the invariant reads the fault flags. -/
theorem raiseCmdFault_inv {s : State} (reason : CmdFaultReason) (hi : s.Inv) : (raiseCmdFault reason s).Inv :=
  ⟨hi.legal, hi.tx_idx_le, hi.tx_idx_zero, hi.descriptor, hi.frame, hi.pending, hi.settle_cnt, hi.window_cnt, hi.rx_cnt,
    hi.fifo_le, hi.closed_fifo, hi.idle_result, hi.result⟩

/-- An encoded frame is a frame of its opcode, a short payload being its padded one (R54). -/
theorem frameIsFor_encodeFrame (op : Byte) (p : Payload) {k : Nat} (hk : k ≤ 13) :
    frameIsFor op (bytesVec 18 (encodeFrame op p.toList k)) = true := by
  have hp : k ≤ p.toList.length := hk.trans_eq p.length_toList.symm
  have hpad : (fit 13 (p.toList.take k)).length = 13 := fit_length 13 _
  have hfield : slice (encodeFrame op p.toList k) 4 16 = fit 13 (p.toList.take k) := by
    rw [encodeFrame_fit op p.toList hk hp, encodeFrame_payloadField op le_rfl hpad]
    simp
  rw [frameIsFor, decide_eq_true_eq, bytesVec_toList, fit_of_length (encodeFrame_length op hk hp), hfield]
  exact encodeFrame_fit op p.toList hk hp

theorem acceptExchange_inv {s : State} {d : Descriptor} {op : Byte} {plen : BitVec 4} (p : Payload) (hi : s.Inv)
    (hreg : registry s.params s.rev op = some d) (hplen : plen.toNat ≤ 13) : (acceptExchange d op plen p s).Inv := by
  refine inv_of_tx rfl (Nat.zero_le _) ⟨?_, frameIsFor_encodeFrame op p hplen, rfl⟩ ?_ ResultRegs.cleared_coherent
  · exact congrArg (Option.map (latchOf op)) hreg
  · rw [acceptExchange_fifo, acceptExchange_params]
    split
    · exact Nat.zero_le _
    · exact hi.fifo_le

theorem txStep_inv {s : State} (hi : s.Inv) (hp : s.phase = .tx) : (txStep s).Inv := by
  have hflight := hi.inFlight (busy_iff.mpr (.inl hp))
  rcases txStep_cases s with ⟨_, he⟩ | ⟨_, _, he⟩ | ⟨_, hlast, he⟩ <;> rw [he]
  · exact hi
  · exact inv_of_settle rfl rfl ⟨hflight.descriptor, hflight.frame, hflight.pending⟩ s.params.settle_pos hi.fifo_le
      hi.result
  · have hle := hi.tx_idx_le
    have hidx : (s.txIdx + 1#5).toNat ≤ 17 := by bv_omega
    exact inv_of_tx hp hidx ⟨hflight.descriptor, hflight.frame, hflight.pending⟩ hi.fifo_le hi.result

theorem settleStep_inv {s : State} (hi : s.Inv) (hp : s.phase = .settle) : (settleStep s).Inv := by
  have hflight := hi.inFlight (busy_iff.mpr (.inr (.inl hp)))
  have hidx := hi.txIdx_eq_zero hp (by decide)
  obtain ⟨_, hn⟩ := hflight.lengths
  rcases settleStep_cases s with ⟨_, he⟩ | ⟨hmore, he⟩ <;> rw [he]
  · have hwindow := s.params.timeout_ge
    exact inv_of_rx rfl hidx ⟨hflight.descriptor, hflight.frame, hflight.pending⟩ (by dsimp only; omega)
      (by simp only [BitVec.toNat_ofNat]; omega) hi.fifo_le hi.result
  · have hcnt := hi.settle_cnt hp
    exact inv_of_settle hp hidx ⟨hflight.descriptor, hflight.frame, hflight.pending⟩ (by dsimp only; omega) hi.fifo_le
      hi.result

/-- Where the frame is not complete, fewer than N bytes are read (R127). -/
theorem readCount_lt {s : State} (hread : s.rxCnt.toNat < s.lat.n.toNat)
    (hmore : ¬(s.fifo ≠ [] ∧ readCount s = s.lat.n)) : (readCount s).toNat < s.lat.n.toNat := by
  by_cases hf : s.fifo = []
  · rwa [readCount_nil hf]
  · have hne : s.rxCnt + 1#5 ≠ s.lat.n := fun h => hmore ⟨hf, by rw [readCount, if_neg hf, h]⟩
    rw [readCount, if_neg hf]
    bv_omega

theorem rxStep_inv {s : State} (hi : s.Inv) (hp : s.phase = .rx) : (rxStep s).Inv := by
  have hflight := hi.inFlight (busy_iff.mpr (.inr (.inr hp)))
  have hidx := hi.txIdx_eq_zero hp (by decide)
  have hread := hi.rx_cnt hp
  have hfifo : s.fifo.tail.length ≤ s.params.rxFifoDepth := by
    rw [List.length_tail]
    exact (Nat.sub_le _ _).trans hi.fifo_le
  obtain ⟨hfits, hn⟩ := hflight.lengths
  rcases rxStep_cases s with ⟨_, _, he⟩ | ⟨hmore, _, he⟩ | ⟨hmore, hlast, he⟩ <;> rw [he]
  · refine inv_of_idle rfl hidx hfifo rfl (resultOf_coherent (decodeResponse_sound _ _ (by omega)) ?_)
    rcases remapCode_cases (decodeResponse ((readBuf s).toList.take s.lat.n.toNat) s.lat.n.toNat s.lat.l.toNat).code
      s.lat.remap with ⟨_, hgeneric, hc⟩ | ⟨_, hc⟩
    · exact .inr ⟨hgeneric, hc⟩
    · exact .inl hc
  · rw [decodeResponse_short _ (readCount_lt hread hmore)]
    exact inv_of_idle rfl hidx hfifo rfl (resultOf_bare_coherent (by decide) (by decide))
  · have hcnt := hi.window_cnt hp
    exact inv_of_rx hp hidx ⟨hflight.descriptor, hflight.frame, hflight.pending⟩ (by dsimp only; omega)
      (readCount_lt hread hmore) hfifo hi.result

theorem cycleAction_inv {s u : State} (hi : s.Inv) (h : cycleAction s = .next u) : u.Inv := by
  rcases cycleAction_cases h with ⟨hc, rfl | rfl | ⟨rev, rfl⟩ | rfl⟩ |
    ⟨_, rfl | ⟨reason, rfl⟩ | ⟨d, op, plen, p, hreg, hplen, rfl⟩⟩ | ⟨ht, rfl⟩ | ⟨hs, rfl⟩ | ⟨hx, rfl⟩
  · exact hi
  · exact raiseCmdFault_inv _ hi
  · exact openInClosed_inv rev hi hc
  · exact exchangeInClosed_inv hi hc
  · exact hi
  · exact raiseCmdFault_inv reason hi
  · exact acceptExchange_inv p hi hreg hplen
  · exact txStep_inv hi ht
  · exact settleStep_inv hi hs
  · exact rxStep_inv hi hx

/-- Settles O45: `cycleAction_inv` for the state action, `finishCycle_inv` for the push, `resetRegs_inv` for a reset edge. -/
theorem stepKeepsInvariant : Obligations.StepKeepsInvariant := by
  intro s t hi h
  rcases step_cases h with ⟨_, rfl⟩ | ⟨_, u, hu, rfl⟩
  · exact advance_inv (resetRegs_inv s)
  · refine finishCycle_inv (cycleAction_inv hi hu) fun hc => ?_
    by_contra hp
    exact (cycleAction_session hu hp).1 hc

/-! #### The block goes on -/

theorem cycleAction_of_legal {s : State} (h : s.phase ≠ .illegal) : ∃ u, cycleAction s = .next u := by
  cases hp : s.phase with
  | closed =>
    rcases cycleAction_closed hp with ⟨_, he⟩ | ⟨_, _, he⟩ | ⟨_, _, _, he⟩ | ⟨_, _, _, _, _, he⟩ <;> exact ⟨_, he⟩
  | idle =>
    rcases cycleAction_idle hp with ⟨_, he⟩ | ⟨_, _, he⟩ | ⟨_, _, _, he⟩ | ⟨_, _, _, _, _, he⟩ <;> exact ⟨_, he⟩
  | tx => exact ⟨_, cycleAction_tx hp⟩
  | settle => exact ⟨_, cycleAction_settle hp⟩
  | rx => exact ⟨_, cycleAction_rx hp⟩
  | illegal => exact absurd hp h

theorem step_of_legal {s : State} (h : s.phase ≠ .illegal) : ∃ t, step s = .next t := by
  cases hr : s.pins.rst with
  | true => exact ⟨_, step_reset hr⟩
  | false =>
    obtain ⟨u, hu⟩ := cycleAction_of_legal h
    exact ⟨_, step_of_cycleAction hr hu⟩

theorem runFor_inv (k : Nat) {s : State} (hi : s.Inv) : ∃ t, runFor k s = .next t ∧ t.Inv := by
  induction k generalizing s with
  | zero => exact ⟨s, runFor_zero s, hi⟩
  | succ k ih =>
    obtain ⟨t, ht⟩ := step_of_legal hi.legal
    rw [runFor_succ k ht]
    exact ih (stepKeepsInvariant s t hi ht)

/-- Settles O46: a legal state has a next state, and the invariant, which the reset registers meet, keeps the run legal. -/
theorem invariantStepsOn : Obligations.InvariantStepsOn :=
  ⟨fun _ hi => step_of_legal hi.legal, fun ps now coming k =>
    runFor_inv k (resetRegs_inv { State.reset with params := ps, pins := now, future := coming })⟩

end Sys2Proof.Machine

/-! ### Whole phases and whole exchanges (R38, R103, R126 to R133) -/

namespace Sys2Proof.Machine

/-! #### Runs -/

theorem runFor_succ_inv {k : Nat} {s t : State} (h : runFor (k + 1) s = .next t) :
    ∃ u, step s = .next u ∧ runFor k u = .next t := by
  cases hs : step s with
  | next u => exact ⟨u, rfl, (runFor_succ k hs).symm.trans h⟩
  | _ r =>
    unfold runFor at h
    simp only [Host.Core.run] at h
    rw [show Sys2Proof.core.step s = _ from hs] at h
    cases h

theorem runFor_snoc {k : Nat} {s u t : State} (h : runFor k s = .next u) (hs : step u = .next t) :
    runFor (k + 1) s = .next t :=
  (runFor_add 1 h).trans (runFor_one hs)

theorem runFor_append {m n : Nat} {s u t : State} (h₁ : runFor m s = .next u) (h₂ : runFor n u = .next t) :
    runFor (m + n) s = .next t :=
  (runFor_add n h₁).trans h₂

theorem runFor_params {k : Nat} {s t : State} (h : runFor k s = .next t) : t.params = s.params := by
  induction k generalizing s with
  | zero =>
    injection h with h
    rw [h]
  | succ k ih =>
    obtain ⟨u, hs, hu⟩ := runFor_succ_inv h
    obtain ⟨hparams, _⟩ := parametersAndInputs s u hs
    exact (ih hu).trans hparams

/-- The inputs after `k` edges are those that were to come `k` edges later. -/
theorem runFor_pinsAt {k : Nat} {s t : State} (h : runFor k s = .next t) (j : Nat) :
    State.pinsAt j t = State.pinsAt (k + j) s := by
  induction k generalizing s with
  | zero =>
    injection h with h
    rw [h, Nat.zero_add]
  | succ k ih =>
    obtain ⟨u, hs, hu⟩ := runFor_succ_inv h
    obtain ⟨_, hpins, _⟩ := parametersAndInputs s u hs
    rw [ih hu, hpins, Nat.add_right_comm]

theorem runFor_pins {k : Nat} {s t : State} (h : runFor k s = .next t) : t.pins = State.pinsAt k s :=
  runFor_pinsAt h 0

theorem noReset_after {k n : Nat} {s t : State} (h : runFor k s = .next t) (hr : NoReset (k + n) s) : NoReset n t :=
  fun j hj => by
    rw [runFor_pinsAt h]
    exact hr (k + j) (by omega)

theorem arrivalsIn_after {k : Nat} (n : Nat) {s t : State} (h : runFor k s = .next t) :
    arrivalsIn (k + n) s = arrivalsIn k s ++ arrivalsIn n t :=
  arrivalsIn_add k n (runFor_pinsAt h)

theorem arrivalsIn_length_mono {m n : Nat} (s : State) (h : m ≤ n) :
    (arrivalsIn m s).length ≤ (arrivalsIn n s).length := by
  obtain ⟨k, rfl⟩ := Nat.exists_eq_add_of_le h
  rw [arrivalsIn_eq, arrivalsIn_eq, List.range_add, List.flatMap_append, List.length_append]
  exact Nat.le_add_right _ _

theorem sentIn_add {m : Nat} (n : Nat) {s t : State} (h : runFor m s = .next t) :
    sentIn (m + n) s = sentIn m s ++ sentIn n t := by
  induction m generalizing s with
  | zero =>
    injection h with h
    rw [h, Nat.zero_add]
    rfl
  | succ m ih =>
    obtain ⟨u, hs, hu⟩ := runFor_succ_inv h
    rw [Nat.add_right_comm, sentIn_succ _ hs, sentIn_succ _ hs, ih hu, List.append_assoc]

/-! #### The FIFO while there is room -/

theorem arrivalsIn_one (s : State) : arrivalsIn 1 s = if s.pins.rxValid then [s.pins.rxData] else [] :=
  List.append_nil _

/-- With room for it, the byte that arrives during a Session is appended and no overflow is recorded (R44, R45). -/
theorem finishCycle_fifo_of_room {s u : State} (hp : s.phase ≠ .closed)
    (hroom : (u.fifo ++ arrivalsIn 1 s).length ≤ u.params.rxFifoDepth) :
    (finishCycle s u).fifo = u.fifo ++ arrivalsIn 1 s ∧ (finishCycle s u).fltRxOverflow = u.fltRxOverflow := by
  rw [arrivalsIn_one] at hroom ⊢
  rw [finishCycle_eq]
  by_cases hv : s.pins.rxValid = true
  · rw [if_pos hv, List.length_append, List.length_singleton] at hroom
    have hlt : u.fifo.length < u.params.rxFifoDepth := hroom
    simp [hv, hp, hlt, Nat.not_le.mpr hlt]
  · simp [hv]

/-! #### The edges of TX and SETTLE -/

/-- `k` edges of TX or SETTLE lead from `s` to `u`: they keep the exchange, and the FIFO takes what arrives. -/
structure Carried (k : Nat) (s u : State) : Prop where
  run : runFor k s = .next u
  lat : u.lat = s.lat
  rev : u.rev = s.rev
  txBuf : u.txBuf = s.txBuf
  res : u.res = s.res
  fifo : (s.fifo ++ arrivalsIn k s).length ≤ s.params.rxFifoDepth → u.fifo = s.fifo ++ arrivalsIn k s

theorem Carried.refl (s : State) : Carried 0 s s :=
  ⟨runFor_zero s, rfl, rfl, rfl, rfl, fun _ => (List.append_nil _).symm⟩

/-- One more edge, with the state action `v` of TX or SETTLE. -/
theorem Carried.snoc {k : Nat} {s u v : State} (h : Carried k s u) (hs : step u = .next (finishCycle u v))
    (hp : u.phase ≠ .closed) (hlat : v.lat = u.lat) (hrev : v.rev = u.rev) (hbuf : v.txBuf = u.txBuf)
    (hres : v.res = u.res) (hfifo : v.fifo = u.fifo) (hparams : v.params = u.params) :
    Carried (k + 1) s (finishCycle u v) := by
  refine ⟨runFor_snoc h.run hs, ?_, ?_, ?_, ?_, fun hroom => ?_⟩
  · rw [finishCycle_lat, hlat, h.lat]
  · rw [finishCycle_rev, hrev, h.rev]
  · rw [finishCycle_txBuf, hbuf, h.txBuf]
  · rw [finishCycle_res, hres, h.res]
  · rw [arrivalsIn_after 1 h.run, ← List.append_assoc] at hroom ⊢
    have hbefore : u.fifo = s.fifo ++ arrivalsIn k s := h.fifo (by
      rw [List.length_append] at hroom
      omega)
    rw [← hbefore, ← runFor_params h.run, ← hfifo, ← hparams] at hroom
    obtain ⟨hafter, _⟩ := finishCycle_fifo_of_room hp hroom
    rw [hafter, hfifo, hbefore]

theorem Carried.trans {m n : Nat} {s u t : State} (h₁ : Carried m s u) (h₂ : Carried n u t) : Carried (m + n) s t := by
  refine ⟨runFor_append h₁.run h₂.run, h₂.lat.trans h₁.lat, h₂.rev.trans h₁.rev, h₂.txBuf.trans h₁.txBuf,
    h₂.res.trans h₁.res, fun hroom => ?_⟩
  rw [arrivalsIn_after n h₁.run, ← List.append_assoc] at hroom ⊢
  have hbefore : u.fifo = s.fifo ++ arrivalsIn m s := h₁.fifo (by
    rw [List.length_append] at hroom
    omega)
  rw [← hbefore, ← runFor_params h₁.run] at hroom
  rw [h₂.fifo hroom, hbefore]

theorem Carried.step_tx {k : Nat} {s u : State} (h : Carried k s u) (hp : u.phase = .tx) (hr : u.pins.rst = false) :
    Carried (k + 1) s (finishCycle u (txStep u)) :=
  h.snoc (Machine.step_tx hp hr) (by simp [hp]) (txStep_lat u) (txStep_rev u) (txStep_txBuf u) (txStep_res u)
    (txStep_fifo u) (txStep_params u)

theorem Carried.step_settle {k : Nat} {s u : State} (h : Carried k s u) (hp : u.phase = .settle)
    (hr : u.pins.rst = false) : Carried (k + 1) s (finishCycle u (settleStep u)) :=
  h.snoc (Machine.step_settle hp hr) (by simp [hp]) (settleStep_lat u) (settleStep_rev u) (settleStep_txBuf u)
    (settleStep_res u) (settleStep_fifo u) (settleStep_params u)

/-- The byte that a ready transmitter takes in TX (R103). -/
theorem sentIn_one_tx {s : State} (hp : s.phase = .tx) (hr : s.pins.rst = false) (hready : s.pins.txReady = true) :
    sentIn 1 s = [s.txBuf.toList.getD s.txIdx.toNat 0#8] := by
  have hnow : sentNow s = some (txData s) := by simp [sentNow, hr, hready, txValid_tx hp]
  rw [sentIn_succ 0 (Machine.step_tx hp hr), hnow, txData_tx hp]
  rfl

/-- One edge of a ready transmitter, in the middle of the frame or at its last byte (R103). -/
theorem txStep_ready {s : State} (hready : s.pins.txReady = true) :
    txStep s =
      if s.txIdx = 17#5 then { s with state := stSettle, cnt := 0, txIdx := 0#5 } else { s with txIdx := s.txIdx + 1#5 } := by
  rw [txStep, if_pos hready]

/-- The first `k` of the frame's bytes have gone out. -/
theorem txEdges {s : State} (hp : s.phase = .tx) (hidx : s.txIdx = 0#5) (k : Nat) (hk : k ≤ 17) (hr : NoReset k s)
    (hready : TxAlwaysReady k s) :
    sentIn k s = s.txBuf.toList.take k ∧ ∃ u, Carried k s u ∧ u.phase = .tx ∧ u.txIdx.toNat = k := by
  induction k with
  | zero => exact ⟨rfl, s, Carried.refl s, hp, by rw [hidx]; rfl⟩
  | succ k ih =>
    obtain ⟨hsent, u, hu, hup, huidx⟩ :=
      ih (by omega) (fun j hj => hr j (by omega)) (fun j hj => hready j (by omega))
    have hur : u.pins.rst = false := runFor_pins hu.run ▸ hr k k.lt_succ_self
    have huready : u.pins.txReady = true := runFor_pins hu.run ▸ hready k k.lt_succ_self
    have hmore : u.txIdx ≠ 17#5 := by bv_omega
    refine ⟨?_, _, hu.step_tx hup hur, ?_⟩
    · rw [sentIn_add 1 hu.run, hsent, sentIn_one_tx hup hur huready, huidx, hu.txBuf,
        List.getD_eq_getElem _ _ (by simp; omega), List.take_append_getElem]
    · rw [finishCycle_phase, finishCycle_txIdx, txStep_ready huready, if_neg hmore]
      exact ⟨hup, by bv_omega⟩

/-- The eighteen edges of a ready transmitter (R38, R103). -/
theorem txFrame {s : State} (hp : s.phase = .tx) (hidx : s.txIdx = 0#5) (hr : NoReset 18 s)
    (hready : TxAlwaysReady 18 s) :
    sentIn 18 s = s.txBuf.toList ∧ ∃ t, Carried 18 s t ∧ t.phase = .settle ∧ t.cnt = 0 ∧ t.txIdx = 0#5 := by
  obtain ⟨hsent, u, hu, hup, huidx⟩ :=
    txEdges hp hidx 17 le_rfl (fun j hj => hr j (by omega)) (fun j hj => hready j (by omega))
  have hur : u.pins.rst = false := runFor_pins hu.run ▸ hr 17 (by omega)
  have huready : u.pins.txReady = true := runFor_pins hu.run ▸ hready 17 (by omega)
  have hlast : u.txIdx = 17#5 := BitVec.eq_of_toNat_eq huidx
  refine ⟨?_, _, hu.step_tx hup hur, ?_⟩
  · rw [sentIn_add 1 hu.run, hsent, sentIn_one_tx hup hur huready, huidx, hu.txBuf,
      List.getD_eq_getElem _ _ (by simp), List.take_append_getElem]
    simp
  · rw [finishCycle_phase, finishCycle_cnt, finishCycle_txIdx, txStep_ready huready, if_pos hlast]
    exact ⟨rfl, rfl, rfl⟩

/-- Settles O48: seventeen edges inside the frame and the edge of its last byte. -/
theorem frameGoesOut : Obligations.FrameGoesOut := by
  intro s hp hidx hr hready
  obtain ⟨hsent, t, ht, htp, hcnt, htidx⟩ := txFrame hp hidx hr hready
  exact ⟨hsent, t, ht.run, htp, hcnt, htidx, ht.txBuf, ht.lat, ht.rev, ht.res⟩

theorem settleEdges {s : State} (hp : s.phase = .settle) (hcnt : s.cnt = 0) (k : Nat) (hk : k < s.params.settleCycles)
    (hr : NoReset k s) : ∃ u, Carried k s u ∧ u.phase = .settle ∧ u.cnt = k := by
  induction k with
  | zero => exact ⟨s, Carried.refl s, hp, hcnt⟩
  | succ k ih =>
    obtain ⟨u, hu, hup, hucnt⟩ := ih (by omega) (fun j hj => hr j (by omega))
    have hur : u.pins.rst = false := runFor_pins hu.run ▸ hr k k.lt_succ_self
    have hmore : u.cnt ≠ u.params.settleCycles - 1 := by
      rw [hucnt, runFor_params hu.run]
      omega
    refine ⟨_, hu.step_settle hup hur, ?_⟩
    rw [finishCycle_phase, finishCycle_cnt, settleStep, if_neg hmore]
    exact ⟨hup, congrArg (· + 1) hucnt⟩

/-- The edges of SETTLE, the last of which starts the read window (R126). -/
theorem settleWhole {s : State} (hp : s.phase = .settle) (hcnt : s.cnt = 0) (hr : NoReset s.params.settleCycles s) :
    ∃ t, Carried s.params.settleCycles s t ∧ t.phase = .rx ∧ t.cnt = 0 ∧ t.rxCnt = 0#5 := by
  obtain ⟨k, hk⟩ : ∃ k, s.params.settleCycles = k + 1 := Nat.exists_eq_add_one.mpr s.params.settle_pos
  rw [hk] at hr ⊢
  obtain ⟨u, hu, hup, hucnt⟩ := settleEdges hp hcnt k (by omega) (fun j hj => hr j (by omega))
  have hur : u.pins.rst = false := runFor_pins hu.run ▸ hr k k.lt_succ_self
  have hlast : u.cnt = u.params.settleCycles - 1 := by
    rw [hucnt, runFor_params hu.run]
    omega
  refine ⟨_, hu.step_settle hup hur, ?_⟩
  rw [finishCycle_phase, finishCycle_cnt, finishCycle_rxCnt, settleStep, if_pos hlast]
  exact ⟨rfl, rfl, rfl⟩

/-- Settles O50: `cnt` counts the edges, whatever the inputs are. -/
theorem settleLength : Obligations.SettleLength := by
  intro s hp hcnt hr
  constructor
  · intro k hk
    obtain ⟨u, hu, hup, hucnt⟩ := settleEdges hp hcnt k hk (fun j hj => hr j (by omega))
    exact ⟨u, hu.run, hup, hucnt⟩
  · obtain ⟨t, ht, htp, htcnt, htread⟩ := settleWhole hp hcnt hr
    exact ⟨t, ht.run, htp, htcnt, htread, ht.lat⟩

/-! #### The edges of RX -/

/-- After `k` edges of RX from its first cycle the read window is still open (R127). -/
structure Reading (k : Nat) (s u : State) : Prop where
  run : runFor k s = .next u
  phase : u.phase = .rx
  cnt : u.cnt = k
  lat : u.lat = s.lat
  res : u.res = s.res

theorem Reading.step {k : Nat} {s u : State} (h : Reading k s u) (hr : NoReset (k + 1) s) :
    Machine.step u = .next (finishCycle u (rxStep u)) :=
  step_rx h.phase (runFor_pins h.run ▸ hr k k.lt_succ_self)

/-- An edge that neither completes the frame nor ends the window. -/
theorem Reading.snoc {k : Nat} {s u : State} (h : Reading k s u) (hr : NoReset (k + 1) s)
    (hmore : (readCount u).toNat < s.lat.n.toNat) (hopen : k + 1 < s.params.timeoutCycles) :
    Reading (k + 1) s (finishCycle u (rxStep u)) ∧ (rxStep u).rxCnt = readCount u := by
  have hcnt := h.cnt
  have hparams := runFor_params h.run
  rcases rxStep_cases u with ⟨_, hfull, _⟩ | ⟨_, hlast, _⟩ | ⟨_, _, he⟩
  · rw [hfull, h.lat] at hmore
    omega
  · rw [hparams] at hlast
    omega
  · refine ⟨⟨runFor_snoc h.run (h.step hr), ?_, ?_, ?_, ?_⟩, by rw [he]⟩ <;>
      simp only [finishCycle_phase, finishCycle_cnt, finishCycle_lat, finishCycle_res, he]
    · exact h.phase
    · rw [hcnt]
    · exact h.lat
    · exact h.res

/-- The FIFO over an edge of RX with a byte to pop or with room (R44). -/
theorem rxStep_push {u : State} (hp : u.phase = .rx) (hroom : u.fifo.tail.length < u.params.rxFifoDepth) :
    (finishCycle u (rxStep u)).fifo = u.fifo.tail ++ arrivalsIn 1 u ∧
      (finishCycle u (rxStep u)).fltRxOverflow = u.fltRxOverflow := by
  have h := finishCycle_fifo_of_room (s := u) (u := rxStep u) (by simp [hp]) (by
    have hone := arrivalsIn_length_le 1 u
    rw [List.length_append, rxStep_fifo, rxStep_params]
    omega)
  rwa [rxStep_fifo, rxStep_fltRxOverflow] at h

/-- The bytes of the response that are read after `k` edges, all of them waiting in the FIFO when RX starts. -/
structure ReadingWhole (k : Nat) (s u : State) : Prop extends Reading k s u where
  rxCnt : u.rxCnt.toNat = k
  bytes : u.rxBuf.toList.take k = s.fifo.take k
  fifo : u.fifo = s.fifo.drop k ++ arrivalsIn k s
  overflow : u.fltRxOverflow = s.fltRxOverflow

/-- One edge pops the next byte; the FIFO has room for one that arrives. -/
theorem ReadingWhole.pop {k : Nat} {s u : State} (h : ReadingWhole k s u) (hk : k < s.fifo.length) (hk28 : k < 28)
    (hdepth : s.fifo.length ≤ s.params.rxFifoDepth) :
    u.fifo ≠ [] ∧ (readCount u).toNat = k + 1 ∧ (readBuf u).toList.take (k + 1) = s.fifo.take (k + 1) ∧
      (finishCycle u (rxStep u)).fifo = s.fifo.drop (k + 1) ++ arrivalsIn (k + 1) s ∧
      (finishCycle u (rxStep u)).fltRxOverflow = s.fltRxOverflow := by
  have hcons : u.fifo = s.fifo[k] :: (s.fifo.drop (k + 1) ++ arrivalsIn k s) := by
    rw [h.fifo, List.drop_eq_getElem_cons hk, List.cons_append]
  have hcnt := h.rxCnt
  have hroom : u.fifo.tail.length < u.params.rxFifoDepth := by
    have harr := arrivalsIn_length_le k s
    rw [hcons, List.tail_cons, List.length_append, List.length_drop, runFor_params h.run]
    omega
  obtain ⟨hfifo, hflt⟩ := rxStep_push h.phase hroom
  refine ⟨by rw [hcons]; exact List.cons_ne_nil _ _, ?_, ?_, ?_, hflt.trans h.overflow⟩
  · rw [readCount_cons hcons]
    bv_omega
  · rw [readBuf_cons hcons, hcnt, setIfInBounds_take hk28, h.bytes, List.take_append_getElem]
  · rw [hfifo, hcons, List.tail_cons, List.append_assoc, arrivalsIn_after 1 h.run]

theorem readEdges {s : State} (hp : s.phase = .rx) (hcnt : s.cnt = 0) (hread : s.rxCnt = 0#5)
    (hn28 : s.lat.n.toNat ≤ 28) (hlen : s.lat.n.toNat ≤ s.fifo.length) (hdepth : s.fifo.length ≤ s.params.rxFifoDepth)
    (k : Nat) (hk : k < s.lat.n.toNat) (hr : NoReset k s) : ∃ u, ReadingWhole k s u := by
  induction k with
  | zero =>
    exact ⟨s, ⟨runFor_zero s, hp, hcnt, rfl, rfl⟩, by rw [hread]; rfl, rfl, (List.append_nil _).symm, rfl⟩
  | succ k ih =>
    obtain ⟨u, hu⟩ := ih (by omega) (fun j hj => hr j (by omega))
    obtain ⟨_, hcount, hbuf, hfifo, hflt⟩ := hu.pop (by omega) (by omega) hdepth
    have hwindow := s.params.timeout_ge
    obtain ⟨hnext, hrx⟩ := hu.toReading.snoc hr (by omega) (by omega)
    exact ⟨_, hnext, by rw [finishCycle_rxCnt, hrx, hcount], by rw [finishCycle_rxBuf, rxStep_rxBuf, hbuf], hfifo, hflt⟩

/-- Settles O51: N - 1 pops that go on, and the pop that completes, in the last cycle of the window too (R131). -/
theorem wholeResponseIsRead : Obligations.WholeResponseIsRead := by
  intro s hp hcnt hread hn1 hn28 hlen hdepth hr
  obtain ⟨k, hk⟩ := Nat.exists_eq_add_one.mpr hn1
  rw [hk] at hr
  obtain ⟨u, hu⟩ := readEdges hp hcnt hread hn28 hlen hdepth k (by omega) (fun j hj => hr j (by omega))
  obtain ⟨hne, hcount, hbuf, hfifo, hflt⟩ := hu.pop (by omega) (by omega) hdepth
  have hfull : readCount u = u.lat.n := BitVec.eq_of_toNat_eq (by rw [hcount, hu.lat, hk])
  rcases rxStep_cases u with ⟨_, _, he⟩ | ⟨hno, _⟩ | ⟨hno, _⟩
  · rw [hk]
    refine ⟨_, runFor_snoc hu.run (hu.step hr), ?_, ?_, hfifo, hflt⟩
    · rw [finishCycle_phase, he]
      rfl
    · rw [finishCycle_res, he, hu.lat, hk, hbuf]
  · exact absurd ⟨hne, hfull⟩ hno
  · exact absurd ⟨hne, hfull⟩ hno

/-- Fewer than N bytes so far, each of them read or waiting. -/
structure ReadingShort (k : Nat) (s u : State) : Prop extends Reading k s u where
  count : u.rxCnt.toNat + u.fifo.length = (s.fifo ++ arrivalsIn k s).length

theorem readCount_add_tail {u : State} (h : u.rxCnt.toNat + u.fifo.length ≤ 31) :
    (readCount u).toNat + u.fifo.tail.length = u.rxCnt.toNat + u.fifo.length := by
  cases hf : u.fifo with
  | nil =>
    rw [readCount_nil hf]
    rfl
  | cons b rest =>
    rw [hf, List.length_cons] at h
    rw [readCount_cons hf, List.tail_cons, List.length_cons]
    bv_omega

/-- A pop moves a byte from the waiting ones to the read ones; together they stay fewer than N. -/
theorem ReadingShort.pop {k : Nat} {s u : State} (h : ReadingShort k s u) (hk : k < s.params.timeoutCycles)
    (hn28 : s.lat.n.toNat ≤ 28)
    (hshort : (s.fifo ++ arrivalsIn (s.params.timeoutCycles - 1) s).length < s.lat.n.toNat) :
    (readCount u).toNat + u.fifo.tail.length = (s.fifo ++ arrivalsIn k s).length ∧
      (readCount u).toNat + u.fifo.tail.length < s.lat.n.toNat := by
  have hsofar := arrivalsIn_length_mono s (show k ≤ s.params.timeoutCycles - 1 by omega)
  have hcount := h.count
  rw [List.length_append] at hshort hcount ⊢
  rw [readCount_add_tail (by omega)]
  omega

theorem shortEdges {s : State} (hp : s.phase = .rx) (hcnt : s.cnt = 0) (hread : s.rxCnt = 0#5)
    (hn28 : s.lat.n.toNat ≤ 28)
    (hshort : (s.fifo ++ arrivalsIn (s.params.timeoutCycles - 1) s).length < s.lat.n.toNat)
    (k : Nat) (hk : k < s.params.timeoutCycles) (hr : NoReset k s) : ∃ u, ReadingShort k s u := by
  induction k with
  | zero => exact ⟨s, ⟨runFor_zero s, hp, hcnt, rfl, rfl⟩, by rw [hread]; simp [arrivalsIn]⟩
  | succ k ih =>
    obtain ⟨u, hu⟩ := ih (by omega) (fun j hj => hr j (by omega))
    obtain ⟨htotal, hlt⟩ := hu.pop (by omega) hn28 hshort
    obtain ⟨hnext, hrx⟩ := hu.toReading.snoc hr (by omega) (by omega)
    have hdepth := u.params.depth_ge
    obtain ⟨hfifo, _⟩ := rxStep_push hu.phase (by omega)
    refine ⟨_, hnext, ?_⟩
    rw [finishCycle_rxCnt, hrx, hfifo, arrivalsIn_after 1 hu.run, ← List.append_assoc, List.length_append,
      List.length_append, ← htotal, Nat.add_assoc]

/-- Settles O52: the window stays open for TIMEOUT_CYCLES - 1 edges, and at its last one the frame is short (R130). -/
theorem shortResponseTimesOut : Obligations.ShortResponseTimesOut := by
  intro s hp hcnt hread hn28 hshort hr
  have hwindow := s.params.timeout_ge
  obtain ⟨k, hk⟩ := Nat.exists_eq_add_one.mpr (show 0 < s.params.timeoutCycles by omega)
  rw [hk] at hr
  obtain ⟨u, hu⟩ := shortEdges hp hcnt hread hn28 hshort k (by omega) (fun j hj => hr j (by omega))
  obtain ⟨_, hlt⟩ := hu.pop (by omega) hn28 hshort
  have hucnt := hu.cnt
  have hlat := hu.lat
  rcases rxStep_cases u with ⟨_, hfull, _⟩ | ⟨_, _, he⟩ | ⟨_, hopen, _⟩
  · rw [hfull, hlat] at hlt
    omega
  · rw [hk]
    refine ⟨_, runFor_snoc hu.run (hu.step hr), ?_, ?_⟩
    · rw [finishCycle_phase, he]
      rfl
    · rw [finishCycle_res, he, decodeResponse_short _ (by rw [hlat]; omega), resultOf_bare]
  · rw [runFor_params hu.run] at hopen
    omega

/-! #### From the acceptance to the result -/

theorem cmdReady_busy {s : State} (h : s.busy = true) : cmdReady s = false := by
  rcases busy_iff.mp h with h | h | h <;> simp [cmdReady, h]

/-- A state in which no result shows and no command is taken. -/
def Waiting (u : State) : Prop := u.res.valid = false ∧ cmdReady u = false

theorem Waiting.of_busy {u : State} (hb : u.busy = true) (hv : u.res.valid = false) : Waiting u :=
  ⟨hv, cmdReady_busy hb⟩

/-- The edges of TX and SETTLE after an acceptance: they lead to the first cycle of RX, and the exchange waits all along. -/
theorem txAndSettle {s : State} (hp : s.phase = .tx) (hidx : s.txIdx = 0#5) (hv : s.res.valid = false)
    (hr : NoReset (18 + s.params.settleCycles) s) (hready : TxAlwaysReady 18 s) :
    (∃ r, Carried (18 + s.params.settleCycles) s r ∧ r.phase = .rx ∧ r.cnt = 0 ∧ r.rxCnt = 0#5) ∧
    ∀ k, k < 18 + s.params.settleCycles → ∃ u, runFor k s = .next u ∧ Waiting u := by
  obtain ⟨_, t, ht, htp, htcnt, _⟩ := txFrame hp hidx (fun j hj => hr j (by omega)) hready
  have hparams := runFor_params ht.run
  rw [← hparams] at hr ⊢
  constructor
  · obtain ⟨r, hr', hrp, hrcnt, hrread⟩ := settleWhole htp htcnt (noReset_after ht.run hr)
    exact ⟨r, ht.trans hr', hrp, hrcnt, hrread⟩
  · intro k hk
    by_cases hk18 : k < 18
    · obtain ⟨_, u, hu, hup, _⟩ :=
        txEdges hp hidx k (by omega) (fun j hj => hr j (by omega)) (fun j hj => hready j (by omega))
      exact ⟨u, hu.run, Waiting.of_busy (busy_iff.mpr (.inl hup)) (hu.res ▸ hv)⟩
    · obtain ⟨j, rfl⟩ := Nat.exists_eq_add_of_le (Nat.not_lt.mp hk18)
      obtain ⟨u, hu, hup, _⟩ := settleEdges htp htcnt j (by omega)
        (fun i hi => noReset_after ht.run hr i (by omega))
      have hures := hu.res.trans ht.res
      exact ⟨u, runFor_append ht.run hu.run, Waiting.of_busy (busy_iff.mpr (.inr (.inl hup))) (hures ▸ hv)⟩

/-- From the edge that accepts an EXCHANGE to the first cycle of RX, 19 + SETTLE_CYCLES edges later. -/
theorem acceptToRead {s : State} {op : Byte} {plen : BitVec 4} {p : Payload} {d : Descriptor} (hp : s.phase = .idle)
    (hv : s.pins.cmdValid = true) (hdec : decode (hostBytes s.pins.cmdWord) = .ok (.exchange op plen p))
    (hreg : registry s.params s.rev op = some d) (hplen : plen.toNat ≤ 13)
    (hr : NoReset (19 + s.params.settleCycles) s)
    (hready : ∀ j, 1 ≤ j → j ≤ 18 → (State.pinsAt j s).txReady = true)
    (hroom : ((if s.params.rxFlushOnExchange then [] else s.fifo) ++ arrivalsIn (19 + s.params.settleCycles) s).length
      ≤ s.params.rxFifoDepth) :
    (∃ r, runFor (19 + s.params.settleCycles) s = .next r ∧ r.phase = .rx ∧ r.cnt = 0 ∧ r.rxCnt = 0#5 ∧
      r.lat = latchOf op d ∧ r.res.valid = false ∧
      r.fifo = (if s.params.rxFlushOnExchange then [] else s.fifo) ++ arrivalsIn (19 + s.params.settleCycles) s) ∧
    ∀ k, 1 ≤ k → k < 19 + s.params.settleCycles → ∃ u, runFor k s = .next u ∧ Waiting u := by
  have hstep := step_accept hp hv hdec hreg hplen (hr 0 (by omega))
  have hrun := runFor_one hstep
  have hparams := runFor_params hrun
  have h19 : 19 + s.params.settleCycles = 1 + (18 + (finishCycle s (acceptExchange d op plen p s)).params.settleCycles) := by
    rw [hparams]
    omega
  rw [h19] at hr hroom ⊢
  rw [arrivalsIn_after _ hrun, ← List.append_assoc] at hroom ⊢
  obtain ⟨hfifo, _⟩ := finishCycle_fifo_of_room (s := s) (u := acceptExchange d op plen p s) (by simp [hp]) (by
    rw [List.length_append] at hroom
    rw [acceptExchange_fifo, acceptExchange_params]
    omega)
  rw [acceptExchange_fifo] at hfifo
  rw [← hfifo, ← hparams] at hroom
  obtain ⟨⟨r, hcarried, hrp, hrcnt, hrread⟩, hwaiting⟩ := txAndSettle
    (s := finishCycle s (acceptExchange d op plen p s)) (by simp) (by simp) (by simp [ResultRegs.cleared])
    (noReset_after hrun hr) (fun j hj => by
      rw [runFor_pinsAt hrun]
      exact hready (1 + j) (by omega) (by omega))
  constructor
  · refine ⟨r, runFor_append hrun hcarried.run, hrp, hrcnt, hrread, ?_, ?_, ?_⟩
    · rw [hcarried.lat, finishCycle_lat, acceptExchange_lat]
    · rw [hcarried.res, finishCycle_res, acceptExchange_res]
      rfl
    · rw [hcarried.fifo hroom, hfifo]
  · intro k hk hk'
    obtain ⟨j, rfl⟩ := Nat.exists_eq_add_of_le hk
    obtain ⟨u, hu, hw⟩ := hwaiting j (by omega)
    exact ⟨u, runFor_append hrun hu, hw⟩

/-- The states before the result: those before RX, and those of the open read window. -/
theorem waiting_until {m n : Nat} {s r : State} (hrun : runFor m s = .next r) (hv : r.res.valid = false)
    (hbefore : ∀ k, 1 ≤ k → k < m → ∃ u, runFor k s = .next u ∧ Waiting u)
    (hreading : ∀ k, k < n → ∃ u, Reading k r u) :
    ∀ k, 1 ≤ k → k < m + n → ∃ u, runFor k s = .next u ∧ u.res.valid = false ∧ cmdReady u = false := by
  intro k hk hk'
  by_cases hkm : k < m
  · exact hbefore k hk hkm
  · obtain ⟨j, rfl⟩ := Nat.exists_eq_add_of_le (Nat.not_lt.mp hkm)
    obtain ⟨u, hu⟩ := hreading j (by omega)
    exact ⟨u, runFor_append hrun hu.run, Waiting.of_busy (busy_iff.mpr (.inr (.inr hu.phase))) (hu.res ▸ hv)⟩

/-- Settles O53: `acceptToRead`, then `wholeResponseIsRead` on the FIFO that holds `q`. -/
theorem exchangeEarliestCompletion : Obligations.ExchangeEarliestCompletion := by
  rintro s op plen p d n q hp hv hdec hreg hplen rfl hr hready rfl hlen hdepth
  obtain ⟨⟨r, hrun, hrp, hrcnt, hrread, hlat, hrv, hfifo⟩, hbefore⟩ :=
    acceptToRead hp hv hdec hreg hplen (fun j hj => hr j (by omega)) hready hdepth
  have hn : r.lat.n = responseLength d.variant := by rw [hlat, latchOf]
  have hl : r.lat.l = d.len := by rw [hlat, latchOf]
  have hremap : r.lat.remap = d.remap := by rw [hlat, latchOf]
  have hbounds := responseLength_toNat d.variant
  have hreset := noReset_after hrun hr
  rw [← hfifo] at hlen hdepth ⊢
  rw [← runFor_params hrun] at hdepth
  rw [← hn] at hlen hbounds hreset ⊢
  constructor
  · obtain ⟨t, ht, htp, hres, _⟩ :=
      wholeResponseIsRead r hrp hrcnt hrread (by omega) (by omega) hlen hdepth hreset
    refine ⟨t, runFor_append hrun ht, htp, ?_⟩
    rw [hres, hl, hremap]
  · refine waiting_until hrun hrv hbefore fun k hk => ?_
    obtain ⟨u, hu⟩ := readEdges hrp hrcnt hrread (by omega) hlen hdepth k hk (fun j hj => hreset j (by omega))
    exact ⟨u, hu.toReading⟩

/-- Settles O54: `acceptToRead`, then `shortResponseTimesOut`. -/
theorem exchangeLatestCompletion : Obligations.ExchangeLatestCompletion := by
  intro s op plen p d hp hv hdec hreg hplen hr hready hshort
  have hwindow := s.params.timeout_ge
  have hdepth := s.params.depth_ge
  have hbounds := responseLength_toNat d.variant
  have hlast : 18 + s.params.settleCycles + s.params.timeoutCycles =
      19 + s.params.settleCycles + (s.params.timeoutCycles - 1) := by omega
  rw [hlast] at hshort
  obtain ⟨⟨r, hrun, hrp, hrcnt, hrread, hlat, hrv, hfifo⟩, hbefore⟩ :=
    acceptToRead hp hv hdec hreg hplen (fun j hj => hr j (by omega)) hready (by
      have hsofar := arrivalsIn_length_mono s
        (Nat.le_add_right (19 + s.params.settleCycles) (s.params.timeoutCycles - 1))
      rw [List.length_append] at hshort ⊢
      omega)
  have hn : r.lat.n = responseLength d.variant := by rw [hlat, latchOf]
  have hparams := runFor_params hrun
  have hreset := noReset_after hrun hr
  rw [arrivalsIn_after _ hrun, ← List.append_assoc, ← hfifo, ← hn, ← hparams] at hshort
  rw [← hn] at hbounds
  rw [← hparams] at hreset
  constructor
  · obtain ⟨t, ht, htp, hres⟩ := shortResponseTimesOut r hrp hrcnt hrread (by omega) hshort hreset
    rw [hparams] at ht
    exact ⟨t, runFor_append hrun ht, htp, hres⟩
  · refine waiting_until hrun hrv hbefore fun k hk => ?_
    obtain ⟨u, hu⟩ := shortEdges hrp hrcnt hrread (by omega) hshort k (by rwa [hparams])
      (fun j hj => hreset j (by rw [hparams]; omega))
    exact ⟨u, hu.toReading⟩

end Sys2Proof.Machine

/-! ### Replay stability (R134) -/

namespace Sys2Proof.Machine

/-! #### States that a run cannot tell apart -/

/-- The registers that the outputs show and every edge reads. -/
structure Shown (s t : State) : Prop where
  state : s.state = t.state
  rev : s.rev = t.rev
  params : s.params = t.params
  fifo : s.fifo = t.fifo
  res : s.res = t.res

/-- The states agree on every register that matters in their phase: the latches and the frame in flight, the counters of the
phase, and the bytes of `rx_buf` that have been read. What earlier exchanges left in the other registers is free. -/
structure Alike (s t : State) : Prop extends Shown s t where
  exchange : s.busy = true → s.lat = t.lat ∧ s.txBuf = t.txBuf
  tx : s.phase = .tx → s.txIdx = t.txIdx
  settle : s.phase = .settle → s.cnt = t.cnt
  rx : s.phase = .rx → s.cnt = t.cnt ∧ s.rxCnt = t.rxCnt ∧
    s.rxBuf.toList.take s.rxCnt.toNat = t.rxBuf.toList.take s.rxCnt.toNat

theorem Shown.phase {s t : State} (h : Shown s t) : s.phase = t.phase := congrArg phaseOf h.state

/-- In CLOSED and IDLE the shown registers are all. -/
theorem Alike.of_ready {s t : State} (h : Shown s t) (hp : s.phase = .closed ∨ s.phase = .idle) : Alike s t := by
  have hno {ph : Phase} (h₁ : ph ≠ .closed) (h₂ : ph ≠ .idle) : s.phase ≠ ph := fun he =>
    hp.elim (fun hc => h₁ (he.symm.trans hc)) (fun hi => h₂ (he.symm.trans hi))
  exact ⟨h, fun hb => by simp [busy_eq_false hp] at hb, fun he => absurd he (hno nofun nofun),
    fun he => absurd he (hno nofun nofun), fun he => absurd he (hno nofun nofun)⟩

/-! #### The state actions of alike states -/

theorem cycleAction_ready_error {s : State} {e : DecodeError} (hp : s.phase = .closed ∨ s.phase = .idle)
    (hv : s.pins.cmdValid = true) (hd : decodeHostNat s.pins.cmdWord.toNat = .error e) :
    cycleAction s = .next (raiseCmdFault .reservedKind s) := by
  rcases hp with hp | hp <;> simp [cycleAction, fetchBytes, undecoded, hp, hv, decode_hostBytes, hd]

theorem cycleAction_ready_ok {s : State} {i : Instr} (hp : s.phase = .closed ∨ s.phase = .idle)
    (hv : s.pins.cmdValid = true) (hd : decodeHostNat s.pins.cmdWord.toNat = .ok i) : cycleAction s = exec i s := by
  rcases hp with hp | hp <;> simp [cycleAction, fetchBytes, hp, hv, decode_hostBytes, hd]

theorem raiseCmdFault_alike {s t : State} (reason : CmdFaultReason) (h : Alike s t) :
    Alike (raiseCmdFault reason s) (raiseCmdFault reason t) :=
  ⟨⟨h.state, h.rev, h.params, h.fifo, h.res⟩, h.exchange, h.tx, h.settle, h.rx⟩

theorem openInClosed_alike {s t : State} (rev : Revision) (h : Alike s t) (hpins : s.pins = t.pins)
    (hp : s.phase = .closed) : Alike (openInClosed rev s) (openInClosed rev t) := by
  rw [openInClosed, openInClosed, ← hpins]
  split_ifs
  · exact Alike.of_ready ⟨rfl, rfl, h.params, h.fifo, rfl⟩ (.inr rfl)
  · exact Alike.of_ready ⟨h.state, h.rev, h.params, h.fifo, rfl⟩ (.inl hp)

theorem exchangeInClosed_alike {s t : State} (h : Alike s t) (hp : s.phase = .closed) :
    Alike (exchangeInClosed s) (exchangeInClosed t) :=
  Alike.of_ready ⟨h.state, h.rev, h.params, h.fifo, rfl⟩ (.inl hp)

/-- An acceptance writes or clears everything that the exchange will read, the result registers too (R124). -/
theorem acceptExchange_alike {s t : State} (d : Descriptor) (op : Byte) (plen : BitVec 4) (p : Payload)
    (hrev : s.rev = t.rev) (hparams : s.params = t.params) (hfifo : s.fifo = t.fifo) :
    Alike (acceptExchange d op plen p s) (acceptExchange d op plen p t) := by
  refine ⟨⟨rfl, hrev, hparams, ?_, rfl⟩, fun _ => ⟨rfl, rfl⟩, fun _ => rfl, fun h => ?_, fun h => ?_⟩
  · rw [acceptExchange_fifo, acceptExchange_fifo, hfifo, hparams]
  · rw [acceptExchange_phase] at h
    cases h
  · rw [acceptExchange_phase] at h
    cases h

theorem exchangeInIdle_alike {s t : State} (op : Byte) (plen : BitVec 4) (p : Payload) (h : Alike s t) :
    Alike (exchangeInIdle op plen p s) (exchangeInIdle op plen p t) := by
  rw [exchangeInIdle, exchangeInIdle, ← h.params, ← h.rev]
  cases registry s.params s.rev op with
  | none => exact raiseCmdFault_alike _ h
  | some d =>
    dsimp only
    split_ifs
    · exact raiseCmdFault_alike _ h
    · exact acceptExchange_alike d op plen p h.rev h.params h.fifo

theorem txStep_alike {s t : State} (h : Alike s t) (hpins : s.pins = t.pins) (hp : s.phase = .tx) :
    Alike (txStep s) (txStep t) := by
  have hexchange := h.exchange (busy_iff.mpr (.inl hp))
  have hidx := h.tx hp
  rw [txStep, txStep, ← hpins, ← hidx]
  split_ifs
  · exact ⟨⟨rfl, h.rev, h.params, h.fifo, h.res⟩, fun _ => hexchange, fun _ => rfl, fun _ => rfl, nofun⟩
  · exact ⟨⟨h.state, h.rev, h.params, h.fifo, h.res⟩, fun _ => hexchange, fun _ => rfl,
      fun hp' => absurd (hp.symm.trans hp') (by decide), fun hp' => absurd (hp.symm.trans hp') (by decide)⟩
  · exact h

theorem settleStep_alike {s t : State} (h : Alike s t) (hp : s.phase = .settle) :
    Alike (settleStep s) (settleStep t) := by
  have hexchange := h.exchange (busy_iff.mpr (.inr (.inl hp)))
  rw [settleStep, settleStep, ← h.settle hp, ← h.params]
  split_ifs
  · exact ⟨⟨rfl, h.rev, rfl, h.fifo, h.res⟩, fun _ => hexchange, nofun, nofun, fun _ => ⟨rfl, rfl, rfl⟩⟩
  · exact ⟨⟨h.state, h.rev, rfl, h.fifo, h.res⟩, fun _ => hexchange, fun hp' => absurd (hp.symm.trans hp') (by decide),
      fun _ => rfl, fun hp' => absurd (hp.symm.trans hp') (by decide)⟩

/-- A pop writes the same byte at the same place, so the bytes read so far stay the same. -/
theorem readBuf_take_congr {s t : State} (hfifo : s.fifo = t.fifo) (hcnt : s.rxCnt = t.rxCnt)
    (hbytes : s.rxBuf.toList.take s.rxCnt.toNat = t.rxBuf.toList.take s.rxCnt.toNat) :
    (readBuf s).toList.take (readCount s).toNat = (readBuf t).toList.take (readCount s).toNat := by
  cases hf : s.fifo with
  | nil => rwa [readCount_nil hf, readBuf_nil hf, readBuf_nil (hfifo ▸ hf)]
  | cons b rest =>
    rw [readCount_cons hf, readBuf_cons hf, readBuf_cons (hfifo ▸ hf), ← hcnt]
    by_cases hlt : s.rxCnt.toNat < 28
    · rw [show (s.rxCnt + 1#5).toNat = s.rxCnt.toNat + 1 by bv_omega, setIfInBounds_take hlt, setIfInBounds_take hlt, hbytes]
    · have hall (v : Vector Byte 28) : v.toList.take s.rxCnt.toNat = v.toList :=
        List.take_of_length_le (by rw [Vector.length_toList]; omega)
      rw [hall, hall] at hbytes
      rw [Vector.toList_inj.mp hbytes]

theorem rxStep_alike {s t : State} (h : Alike s t) (hp : s.phase = .rx) : Alike (rxStep s) (rxStep t) := by
  obtain ⟨hlat, hbuf⟩ := h.exchange (busy_iff.mpr (.inr (.inr hp)))
  obtain ⟨hcnt, hread, hbytes⟩ := h.rx hp
  have hcount : readCount t = readCount s := by rw [readCount, readCount, h.fifo, hread]
  have htake := readBuf_take_congr h.fifo hread hbytes
  rw [rxStep_eq, rxStep_eq, hcount, ← h.fifo, rxAdvance, rxAdvance]
  simp only [← hlat, ← hcnt, ← h.params]
  split_ifs with hfull
  · refine Alike.of_ready ⟨rfl, h.rev, rfl, rfl, ?_⟩ (.inr rfl)
    rw [frameComplete_eq, frameComplete_eq]
    simp only [hfull.2] at htake
    simp only [htake]
  · refine Alike.of_ready ⟨rfl, h.rev, rfl, rfl, ?_⟩ (.inr rfl)
    rw [readTimeout_eq, readTimeout_eq]
    simp only [htake]
  · exact ⟨⟨h.state, h.rev, rfl, rfl, h.res⟩, fun _ => ⟨rfl, hbuf⟩, fun hp' => absurd (hp.symm.trans hp') (by decide),
      fun hp' => absurd (hp.symm.trans hp') (by decide), fun _ => ⟨rfl, rfl, htake⟩⟩

theorem cycleAction_alike {s t u : State} (h : Alike s t) (hpins : s.pins = t.pins) (hu : cycleAction s = .next u) :
    ∃ v, cycleAction t = .next v ∧ Alike u v := by
  have hphase : ∀ {ph}, s.phase = ph → t.phase = ph := fun hp => h.phase ▸ hp
  cases hp : s.phase with
  | closed =>
    have htp := hphase hp
    rcases cycleAction_closed hp with ⟨hv, he⟩ | ⟨hv, hd, he⟩ | ⟨rev, hv, hd, he⟩ | ⟨op, plen, p, hv, hd, he⟩ <;>
      rw [he] at hu <;> injection hu with hu <;> subst hu <;> rw [hpins] at hv
    · exact ⟨t, cycleAction_no_command (.inl htp) hv, h⟩
    all_goals rw [hpins] at hd
    · exact ⟨_, cycleAction_ready_error (.inl htp) hv hd, raiseCmdFault_alike _ h⟩
    · exact ⟨_, (cycleAction_ready_ok (.inl htp) hv hd).trans (exec_openSession_closed rev htp),
        openInClosed_alike rev h hpins hp⟩
    · exact ⟨_, (cycleAction_ready_ok (.inl htp) hv hd).trans (commonExchange_closed op plen p htp),
        exchangeInClosed_alike h hp⟩
  | idle =>
    have htp := hphase hp
    rcases cycleAction_idle hp with ⟨hv, he⟩ | ⟨hv, hd, he⟩ | ⟨rev, hv, hd, he⟩ | ⟨op, plen, p, hv, hd, he⟩ <;>
      rw [he] at hu <;> injection hu with hu <;> subst hu <;> rw [hpins] at hv
    · exact ⟨t, cycleAction_no_command (.inr htp) hv, h⟩
    all_goals rw [hpins] at hd
    · exact ⟨_, cycleAction_ready_error (.inr htp) hv hd, raiseCmdFault_alike _ h⟩
    · exact ⟨_, (cycleAction_ready_ok (.inr htp) hv hd).trans (exec_openSession_idle rev htp),
        raiseCmdFault_alike _ h⟩
    · exact ⟨_, (cycleAction_ready_ok (.inr htp) hv hd).trans (exec_exchange_idle op plen p htp),
        exchangeInIdle_alike op plen p h⟩
  | tx =>
    rw [cycleAction_tx hp] at hu
    injection hu with hu
    subst hu
    exact ⟨_, cycleAction_tx (hphase hp), txStep_alike h hpins hp⟩
  | settle =>
    rw [cycleAction_settle hp] at hu
    injection hu with hu
    subst hu
    exact ⟨_, cycleAction_settle (hphase hp), settleStep_alike h hp⟩
  | rx =>
    rw [cycleAction_rx hp] at hu
    injection hu with hu
    subst hu
    exact ⟨_, cycleAction_rx (hphase hp), rxStep_alike h hp⟩
  | illegal =>
    rw [cycleAction_illegal hp] at hu
    cases hu

/-- The rest of an edge with the same arriving byte; the overflow flag is not compared. -/
theorem finishCycle_alike {s t u v : State} (h : Alike u v) (hpins : s.pins = t.pins) (hp : s.phase = t.phase) :
    Alike (finishCycle s u) (finishCycle t v) := by
  rw [finishCycle_eq, finishCycle_eq, ← hpins, ← hp, ← h.fifo, ← h.params]
  exact ⟨⟨h.state, h.rev, rfl, rfl, h.res⟩, h.exchange, h.tx, h.settle, h.rx⟩

/-! #### Runs of alike states under the same inputs -/

theorem advance_alike {s t : State} (h : Shown s t) (hp : s.phase = .closed) : Alike s.advance t.advance :=
  Alike.of_ready ⟨by simpa using h.state, by simpa using h.rev, by simpa using h.params, by simpa using h.fifo,
    by simpa using h.res⟩ (.inl (by simpa using hp))

theorem step_alike {s t s' : State} (h : Alike s t) (hpins : s.pins = t.pins) (hs : step s = .next s') :
    ∃ t', step t = .next t' ∧ Alike s' t' := by
  rcases step_cases hs with ⟨hr, rfl⟩ | ⟨hr, u, hu, rfl⟩ <;> rw [hpins] at hr
  · exact ⟨_, step_reset hr, advance_alike ⟨rfl, rfl, h.params, rfl, rfl⟩ rfl⟩
  · obtain ⟨v, hv, huv⟩ := cycleAction_alike h hpins hu
    exact ⟨_, step_of_cycleAction hr hv, finishCycle_alike huv hpins h.phase⟩

theorem step_pinsAt {s t : State} (h : step s = .next t) (j : Nat) : State.pinsAt j t = State.pinsAt (j + 1) s := by
  obtain ⟨_, hpins, _⟩ := parametersAndInputs s t h
  exact hpins j

theorem runFor_alike (k : Nat) {s t : State} (h : Alike s t) (hpins : ∀ k, State.pinsAt k s = State.pinsAt k t)
    (hlegal : s.phase ≠ .illegal) :
    ∃ s' t', runFor k s = .next s' ∧ runFor k t = .next t' ∧ Alike s' t' := by
  induction k generalizing s t with
  | zero => exact ⟨s, t, runFor_zero s, runFor_zero t, h⟩
  | succ k ih =>
    obtain ⟨u, hu⟩ := step_of_legal hlegal
    obtain ⟨v, hv, huv⟩ := step_alike h (hpins 0) hu
    rw [runFor_succ k hu, runFor_succ k hv]
    exact ih huv (fun j => by rw [step_pinsAt hu, step_pinsAt hv, hpins]) (step_next_phase_ne_illegal hu)

theorem Alike.txData {s t : State} (h : Alike s t) : Machine.txData s = Machine.txData t := by
  by_cases hp : s.phase = .tx
  · obtain ⟨_, hbuf⟩ := h.exchange (busy_iff.mpr (.inl hp))
    rw [txData_tx hp, txData_tx (h.phase ▸ hp), hbuf, h.tx hp]
  · rw [Machine.txData, Machine.txData, if_neg hp, if_neg (h.phase ▸ hp)]

/-- Settles O55: the acceptance makes the states alike, and alike states stay so under the same inputs. -/
theorem replayStability : Obligations.ReplayStability := by
  intro s₁ s₂ op plen p d hp₁ hp₂ hparams hrev hf₁ hf₂ hpins hr hv hdec hreg hplen k hk
  obtain ⟨j, rfl⟩ := Nat.exists_eq_add_of_le' hk
  have hpins₀ : s₁.pins = s₂.pins := hpins 0
  have h₁ := step_accept hp₁ hv hdec hreg hplen hr
  have h₂ := step_accept hp₂ (hpins₀ ▸ hv) (hpins₀ ▸ hdec) (hparams ▸ hrev ▸ hreg) hplen (hpins₀ ▸ hr)
  have halike := finishCycle_alike (acceptExchange_alike d op plen p hrev hparams (hf₁.trans hf₂.symm)) hpins₀
    (hp₁.trans hp₂.symm)
  obtain ⟨t₁, t₂, hrun₁, hrun₂, h⟩ := runFor_alike j halike
    (fun i => by rw [step_pinsAt h₁, step_pinsAt h₂, hpins])
    (step_next_phase_ne_illegal h₁)
  refine ⟨t₁, t₂, (runFor_succ j h₁).trans hrun₁, (runFor_succ j h₂).trans hrun₂, h.res, h.state, h.rev, h.fifo, ?_,
    h.txData⟩
  rw [txValid, txValid, h.phase]

end Sys2Proof.Machine

/-! ### The outputs and the host's decodes (R27 to R31, R138 to R146) -/

namespace Sys2Proof.Machine

/-! #### The handshake outputs -/

theorem phase_closed_iff {s : State} : s.phase = .closed ↔ s.state = 0#3 :=
  ⟨phase_closed, fun h => congrArg phaseOf h⟩

theorem phase_idle_iff {s : State} : s.phase = .idle ↔ s.state = 1#3 :=
  ⟨phase_idle, fun h => congrArg phaseOf h⟩

theorem phase_tx_iff {s : State} : s.phase = .tx ↔ s.state = 2#3 :=
  ⟨phase_tx, fun h => congrArg phaseOf h⟩

/-- Settles O56: the outputs are defined by the phase, and the phase by the register's number (R15). -/
theorem handshakeOutputs : Obligations.HandshakeOutputs := by
  intro s
  refine ⟨?_, ?_, fun h => txData_tx (phase_tx_iff.mpr h), fun h => ?_⟩
  · rw [cmdReady, Bool.or_eq_true, decide_eq_true_eq, decide_eq_true_eq, phase_closed_iff, phase_idle_iff]
  · rw [txValid, decide_eq_true_eq, phase_tx_iff]
  · rw [txData, if_neg (mt phase_tx_iff.mp h)]

/-! #### The status word -/

theorem flagBit_getLsbD (b : Bool) : (flagBit b).getLsbD 0 = b := by
  cases b <;> rfl

theorem revBit_getLsbD (rev : Revision) : (revBit rev).getLsbD 0 = true ↔ rev = .extended := by
  cases rev <;> decide

theorem ResultCode.bits_eq_iff {a b : ResultCode} {n : BitVec 3} (h : b.bits = n) : a.bits = n ↔ a = b := by
  subst h
  cases a <;> cases b <;> decide

/-- The fields of `status_word` from bit 31 down, with the width written as the sum of theirs (R28). -/
def statusFields (s : State) : BitVec (8 + 3 + 5 + 1 + 1 + 3 + 3 + 1 + 1 + 1 + 1 + 1 + 3) :=
  s.res.status ++ 0#3 ++ s.res.plen ++ 0#1 ++ flagBit s.res.payloadValid ++ s.res.rawCode.bits ++ s.res.code.bits
    ++ flagBit s.res.statusValid ++ flagBit s.fltRxOverflow ++ flagBit s.fltCmd ++ flagBit s.res.valid ++ revBit s.rev
    ++ s.state

theorem statusWord_getLsbD (s : State) (i : Nat) : (statusWord s).getLsbD i = (statusFields s).getLsbD i := rfl

theorem statusWord_extractLsb' (s : State) (start len : Nat) :
    (statusWord s).extractLsb' start len = (statusFields s).extractLsb' start len := rfl

/-- The flags of the status word: the fields below each are passed over. -/
theorem statusWord_flags (s : State) :
    (statusWord s).getLsbD 3 = (revBit s.rev).getLsbD 0 ∧
    (statusWord s).getLsbD 4 = s.res.valid ∧
    (statusWord s).getLsbD 5 = s.fltCmd ∧
    (statusWord s).getLsbD 6 = s.fltRxOverflow ∧
    (statusWord s).getLsbD 7 = s.res.statusValid ∧
    (statusWord s).getLsbD 14 = s.res.payloadValid ∧
    (statusWord s).getLsbD 15 = false := by
  simp [-BitVec.getLsbD_eq_getElem, -Nat.reduceAdd, statusWord_getLsbD, statusFields, BitVec.getLsbD_append, flagBit_getLsbD]

/-- The fields of several bits: those below each are passed over, those above it cut off. -/
theorem statusWord_fields (s : State) :
    (statusWord s).extractLsb' 0 3 = s.state ∧
    (statusWord s).extractLsb' 8 3 = s.res.code.bits ∧
    (statusWord s).extractLsb' 11 3 = s.res.rawCode.bits ∧
    (statusWord s).extractLsb' 16 5 = s.res.plen ∧
    (statusWord s).extractLsb' 21 3 = 0#3 ∧
    (statusWord s).extractLsb' 24 8 = s.res.status := by
  simp [-Nat.reduceAdd, statusWord_extractLsb', statusFields, BitVec.extractLsb'_append_eq_ite]

theorem resPayloadOut_byte (s : State) {i : Nat} (hi : i < 23) :
    (resPayloadOut s).extractLsb' (8 * i) 8 = s.res.payload.toList.getD i 0#8 := by
  have hlt := leNat_lt s.res.payload.toList
  have hbytes := leBytes_leNat s.res.payload.toList
  rw [Vector.length_toList] at hbytes
  replace hlt : leNat s.res.payload.toList < 2 ^ 184 := by simpa using hlt
  conv_rhs => rw [← hbytes, leBytes_getD 23 _ hi]
  rw [extractLsb'_eq_ofNat, resPayloadOut, BitVec.toNat_ofNat, Nat.mod_eq_of_lt hlt, pow_mul]
  rfl

/-- Settles O57: `statusWord_flags` and `statusWord_fields`, with the numbers of the codes told apart by `bits_eq_iff`. -/
theorem statusWordLayout : Obligations.StatusWordLayout := by
  intro s
  obtain ⟨hrev, hvalid, hcmd, hoverflow, hstatusValid, hpayloadValid, hzero⟩ := statusWord_flags s
  obtain ⟨hstate, hcode, hraw, hplen, hreserved, hstatus⟩ := statusWord_fields s
  refine ⟨hstate, ?_, hvalid, hcmd, hoverflow, hstatusValid, fun row hrow => ?_, hpayloadValid, hzero, hplen, hreserved,
    hstatus, fun i hi => resPayloadOut_byte s hi⟩
  · rw [hrev]
    exact revBit_getLsbD s.rev
  · rw [hcode, hraw]
    simp only [List.mem_cons, List.not_mem_nil, or_false] at hrow
    rcases hrow with rfl | rfl | rfl | rfl | rfl | rfl | rfl | rfl <;>
      exact ⟨ResultCode.bits_eq_iff rfl, ResultCode.bits_eq_iff rfl⟩

/-! #### The host's decodes -/

/-- Settles O59: `hostDecode` tests the code before it looks at the payload. -/
theorem typedValueOnlyOnSuccess : Obligations.TypedValueOnlyOnSuccess := by
  intro hp op r
  have hother : r.code ≠ .success → hostDecode hp op r = .error (.absent r.code) := fun h => by rw [hostDecode, if_neg h]
  refine ⟨fun v hv => ?_, hother⟩
  by_contra h
  rw [hother h] at hv
  cases hv

theorem utf8From_ascii {bs : List Byte} (h : ∀ b ∈ bs, b.toNat < 0x80) :
    utf8From 0 0 0 bs = some (bs.map (fun b => Char.ofNat b.toNat)) := by
  induction bs with
  | nil => rfl
  | cons b bs ih =>
    obtain ⟨hb, hbs⟩ := List.forall_mem_cons.mp h
    rw [utf8From, if_pos hb, ih hbs]
    rfl

/-- No lead byte and no continuation byte is 0xF8 or above, whatever is still to come when it is met (R143). -/
theorem utf8From_of_high {bs : List Byte} (h : ∃ b ∈ bs, 0xF8 ≤ b.toNat) (need acc lo : Nat) :
    utf8From need acc lo bs = none := by
  induction bs generalizing need acc lo with
  | nil => simp at h
  | cons b bs ih =>
    rcases (List.exists_mem_cons_iff _ _ _).mp h with hb | hbs
    · cases need with
      | zero =>
        rw [utf8From, if_neg (by omega), if_neg (by omega), if_neg (by omega), if_neg (by omega)]
      | succ n => rw [utf8From, if_pos (by omega)]
    · cases need with
      | zero =>
        rw [utf8From]
        split_ifs <;> simp [ih hbs]
      | succ n =>
        rw [utf8From]
        split_ifs <;> simp [ih hbs]

/-- Above the table's opcodes there is only the row that `internalSerialOpcode` names (R96; log 12). -/
theorem decodePayload_internalSerial {hp : HostParams} {op : Byte} (bs : List Byte) (hop : 20 < op.toNat)
    (h : hp.internalSerialOpcode = some op) : decodePayload hp op bs = (utf8Text bs).map .text := by
  unfold decodePayload
  split
  case h_13 =>
    have hnone : hp.extName[op.toNat - 12]? = none := Vector.getElem?_eq_none (by omega)
    rw [hnone]
    exact if_pos h
  all_goals omega

theorem decodePayload_text {hp : HostParams} {op : Byte} (bs : List Byte)
    (h : op = 0x05#8 ∨ op = 0x0A#8 ∨ (20 < op.toNat ∧ hp.internalSerialOpcode = some op)) :
    decodePayload hp op bs = (utf8Text bs).map .text := by
  rcases h with rfl | rfl | ⟨hop, h⟩
  · rfl
  · rfl
  · exact decodePayload_internalSerial bs hop h

/-- Settles O60: the text by induction on the bytes, the opcodes by their arm of `decodePayload`, the numbers by evaluation. -/
theorem hostTextAndNumbers : Obligations.HostTextAndNumbers := by
  refine ⟨fun p => ⟨?_, fun h => ?_⟩, fun bs h => ?_, fun bs h => ?_, fun hp op bs h => decodePayload_text bs h,
    by decide, by decide⟩
  · rintro rfl
    rfl
  · rw [postMultiplier, if_neg (by omega)]
  · rw [utf8Text, utf8From_ascii h]
  · rw [utf8Text, utf8From_of_high h]

end Sys2Proof.Machine
